-- ==== Sys2Proof/Word.lean ====
section
/-! DEFINITION. The bit-vector types of the chippy CORE (00_scope.md R5, R7): what the spec treats as bits. -/

namespace Sys2Proof

/-- An 8-bit value: a register, a timer, a memory byte, an immediate `KK`. -/
abbrev Byte := BitVec 8

/-- A 16-bit value: `pc`, `I`, a stack slot, an instruction word. -/
abbrev Word := BitVec 16

/-- The 12-bit address operand `NNN`. -/
abbrev Addr12 := BitVec 12

/-- A 4-bit field of an instruction word. -/
abbrev Nibble := BitVec 4

/-- The index of a general register (R20: every 4-bit index is valid). -/
abbrev RegIdx := Fin 16

end Sys2Proof
end

