-- ==== Sys2Proof/Syntax.lean ====
section
/-! DEFINITION. The 34 operations of the chippy CORE (30_encoding.md R82), one constructor per row of the opcode table,
in the table's order. Operands are the fields of R74: `x`, `y` register indices, `kk` the immediate byte, `nnn` the
12-bit address, `n` the row count. Bits the decoder ignores (R80) are no operands. -/

namespace Sys2Proof

/-- An instruction. No-op words (R81) are not among them: the decoder answers them as no operation. -/
inductive Instr where
  /-- CLS, R100 -/
  | cls
  /-- RET, R101 -/
  | ret
  /-- JP addr, R102 -/
  | jp (nnn : Addr12)
  /-- CALL addr, R103 -/
  | call (nnn : Addr12)
  /-- JP V0, addr, R104 -/
  | jpV0 (nnn : Addr12)
  /-- SE Vx, byte, R105 -/
  | seImm (x : RegIdx) (kk : Byte)
  /-- SNE Vx, byte, R106 -/
  | sneImm (x : RegIdx) (kk : Byte)
  /-- SE Vx, Vy, R107 -/
  | seReg (x y : RegIdx)
  /-- SNE Vx, Vy, R108 -/
  | sneReg (x y : RegIdx)
  /-- SKP Vx, R109 -/
  | skp (x : RegIdx)
  /-- SKNP Vx, R110 -/
  | sknp (x : RegIdx)
  /-- LD Vx, byte, R120 -/
  | ldImm (x : RegIdx) (kk : Byte)
  /-- ADD Vx, byte, R121 -/
  | addImm (x : RegIdx) (kk : Byte)
  /-- LD Vx, Vy, R122 -/
  | ldReg (x y : RegIdx)
  /-- OR Vx, Vy, R123 -/
  | orReg (x y : RegIdx)
  /-- AND Vx, Vy, R124 -/
  | andReg (x y : RegIdx)
  /-- XOR Vx, Vy, R125 -/
  | xorReg (x y : RegIdx)
  /-- ADD Vx, Vy, R126 -/
  | addReg (x y : RegIdx)
  /-- SUB Vx, Vy, R127 -/
  | subReg (x y : RegIdx)
  /-- SUBN Vx, Vy, R128 -/
  | subnReg (x y : RegIdx)
  /-- SHR Vx, R129 -/
  | shr (x : RegIdx)
  /-- SHL Vx, R130 -/
  | shl (x : RegIdx)
  /-- RND Vx, byte, R132 -/
  | rnd (x : RegIdx) (kk : Byte)
  /-- LD I, addr, R140 -/
  | ldI (nnn : Addr12)
  /-- ADD I, Vx, R141 -/
  | addI (x : RegIdx)
  /-- LD F, Vx, R142 -/
  | ldF (x : RegIdx)
  /-- LD B, Vx, R143 -/
  | ldB (x : RegIdx)
  /-- LD [I], Vx, R144 -/
  | stRegs (x : RegIdx)
  /-- LD Vx, [I], R145 -/
  | ldRegs (x : RegIdx)
  /-- DRW Vx, Vy, nibble, R151 -/
  | drw (x y : RegIdx) (n : Fin 16)
  /-- LD Vx, DT, R160 -/
  | ldVxDt (x : RegIdx)
  /-- LD DT, Vx, R161 -/
  | ldDt (x : RegIdx)
  /-- LD ST, Vx, R162 -/
  | ldSt (x : RegIdx)
  /-- LD Vx, K, R163 -/
  | ldKey (x : RegIdx)
  deriving DecidableEq, Repr

end Sys2Proof
end

