-- ==== Sys2Proof/WellFormed.lean ====
section
/-! DEFINITION. Well-formedness of instructions, of instruction words and of programs. -/

namespace Sys2Proof

/-- Every term of `Instr` is an instruction: each operand's type is exactly as wide as its field (R73, R74), and the
spec calls no operand value illegal (R20, R81, 90_conflicts.md C6), so nothing is left to check (log entry 9). -/
def Instr.wellFormed : Instr → Bool
  | .cls | .ret => true
  | .jp _ | .call _ | .jpV0 _ | .ldI _ => true
  | .seImm _ _ | .sneImm _ _ | .ldImm _ _ | .addImm _ _ | .rnd _ _ => true
  | .seReg _ _ | .sneReg _ _ | .ldReg _ _ | .orReg _ _ | .andReg _ _ | .xorReg _ _ => true
  | .addReg _ _ | .subReg _ _ | .subnReg _ _ => true
  | .shr _ | .shl _ => true
  | .skp _ | .sknp _ | .addI _ | .ldF _ | .ldB _ | .stRegs _ | .ldRegs _ => true
  | .drw _ _ _ => true
  | .ldVxDt _ | .ldDt _ | .ldSt _ | .ldKey _ => true

/-- A word is canonical when every bit its operation ignores is 0 (R80, R83): bits 11 to 8 of CLS and RET, the low nibble
of families 5 and 9, bits 7 to 4 of the two shifts. Words that are not canonical still execute (R76, R80). -/
def canonicalWord (w : Word) : Bool :=
  if w &&& 0xF0FF = 0x00E0 ∨ w &&& 0xF0FF = 0x00EE then w &&& 0x0F00 = 0
  else if w &&& 0xF000 = 0x5000 ∨ w &&& 0xF000 = 0x9000 then w &&& 0x000F = 0
  else if w &&& 0xF00F = 0x8006 ∨ w &&& 0xF00F = 0x800E then w &&& 0x00F0 = 0
  else true

/-- PROG_MAX (R5): the longest program the load operation accepts, in bytes. -/
def progMax : Nat := 3583

/-- A byte sequence the load operation accepts (R171, 90_conflicts.md C8). -/
def programFits (bytes : List Byte) : Bool := bytes.length ≤ progMax

end Sys2Proof
end

