-- ==== Sys2Proof/Decode.lean ====
section
/-! DEFINITION. The decoder and the encoder (30_encoding.md R73 to R83), and the opcode map of R82 as a table. -/

namespace Sys2Proof

/-! ### Fields (R7, R74) -/

/-- F = op[15:12], the family. -/
def famOf (w : Word) : Nibble := w.extractLsb' 12 4

/-- X = op[11:8]. -/
def xOf (w : Word) : RegIdx := (w.extractLsb' 8 4).toFin

/-- Y = op[7:4]. -/
def yOf (w : Word) : RegIdx := (w.extractLsb' 4 4).toFin

/-- N = op[3:0]. -/
def nOf (w : Word) : Fin 16 := (w.extractLsb' 0 4).toFin

/-- KK = op[7:0], also the low-byte discriminant of families 0, E and F. -/
def kkOf (w : Word) : Byte := w.extractLsb' 0 8

/-- NNN = op[11:0]. -/
def nnnOf (w : Word) : Addr12 := w.extractLsb' 0 12

/-! ### Decoding (R75 to R81): the family first, then the discriminant of families 0, 8, E, F -/

/-- Family 0 (R76): the low byte selects; bits 11 to 8 are not examined. -/
def decodeFam0 (w : Word) : Option Instr :=
  match (kkOf w).toNat with
  | 0xE0 => some .cls
  | 0xEE => some .ret
  | _ => none

/-- Family 8 (R77): the low nibble selects. -/
def decodeFam8 (w : Word) : Option Instr :=
  match (nOf w).val with
  | 0x0 => some (.ldReg (xOf w) (yOf w))
  | 0x1 => some (.orReg (xOf w) (yOf w))
  | 0x2 => some (.andReg (xOf w) (yOf w))
  | 0x3 => some (.xorReg (xOf w) (yOf w))
  | 0x4 => some (.addReg (xOf w) (yOf w))
  | 0x5 => some (.subReg (xOf w) (yOf w))
  | 0x6 => some (.shr (xOf w))
  | 0x7 => some (.subnReg (xOf w) (yOf w))
  | 0xE => some (.shl (xOf w))
  | _ => none

/-- Family E (R78): the low byte selects. -/
def decodeFamE (w : Word) : Option Instr :=
  match (kkOf w).toNat with
  | 0x9E => some (.skp (xOf w))
  | 0xA1 => some (.sknp (xOf w))
  | _ => none

/-- Family F (R79): the low byte selects. -/
def decodeFamF (w : Word) : Option Instr :=
  match (kkOf w).toNat with
  | 0x07 => some (.ldVxDt (xOf w))
  | 0x0A => some (.ldKey (xOf w))
  | 0x15 => some (.ldDt (xOf w))
  | 0x18 => some (.ldSt (xOf w))
  | 0x1E => some (.addI (xOf w))
  | 0x29 => some (.ldF (xOf w))
  | 0x33 => some (.ldB (xOf w))
  | 0x55 => some (.stRegs (xOf w))
  | 0x65 => some (.ldRegs (xOf w))
  | _ => none

/-- The operation a word selects (R75, R82); `none` is a no-op word (R81). -/
def decode (w : Word) : Option Instr :=
  match (famOf w).toNat with
  | 0x0 => decodeFam0 w
  | 0x1 => some (.jp (nnnOf w))
  | 0x2 => some (.call (nnnOf w))
  | 0x3 => some (.seImm (xOf w) (kkOf w))
  | 0x4 => some (.sneImm (xOf w) (kkOf w))
  | 0x5 => some (.seReg (xOf w) (yOf w))
  | 0x6 => some (.ldImm (xOf w) (kkOf w))
  | 0x7 => some (.addImm (xOf w) (kkOf w))
  | 0x8 => decodeFam8 w
  | 0x9 => some (.sneReg (xOf w) (yOf w))
  | 0xA => some (.ldI (nnnOf w))
  | 0xB => some (.jpV0 (nnnOf w))
  | 0xC => some (.rnd (xOf w) (kkOf w))
  | 0xD => some (.drw (xOf w) (yOf w) (nOf w))
  | 0xE => decodeFamE w
  | _ => decodeFamF w

/-- What the decoder reads at the front of a byte sequence. -/
inductive Decoded where
  /-- An operation of the table. -/
  | op (i : Instr)
  /-- A no-op word (R81). -/
  | noOperation (w : Word)
  /-- Fewer than the two bytes every instruction has (R73). -/
  | truncated
  deriving DecidableEq, Repr

/-- The instruction word of two bytes, the first fetched byte high (R54, R70). -/
def wordOfBytes (hi lo : Byte) : Word := hi ++ lo

/-- Decoding the front of any byte sequence, with the bytes left over (R73: every instruction is two bytes). -/
def decodeBytes : List Byte → Decoded × List Byte
  | hi :: lo :: rest =>
    match decode (wordOfBytes hi lo) with
    | some i => (.op i, rest)
    | none => (.noOperation (wordOfBytes hi lo), rest)
  | bs => (.truncated, bs)

/-- The two bytes of a word as the hardware stores them, high byte at the lower address (R54). -/
def bytesOfWord (w : Word) : List Byte := [w.extractLsb' 8 8, w.extractLsb' 0 8]

/-- The instruction read from a word numbered as the opcode table numbers it (bit 0 least significant). -/
def decodeTableWord (nbits w : Nat) : Option Instr :=
  match (decodeBytes (bytesOfWord (BitVec.ofNat 16 (w % 2 ^ nbits)))).1 with
  | .op i => some i
  | .noOperation _ => none
  | .truncated => none

/-! ### Encoding (R73, R82, R83: the canonical word, every ignored bit 0) -/

/-- Format A. -/
def wordA (f : Nibble) (nnn : Addr12) : Word := f ++ nnn

/-- Format XK (and XS, where the byte is the sub-opcode). -/
def wordXK (f : Nibble) (x : RegIdx) (kk : Byte) : Word := f ++ (BitVec.ofFin x : Nibble) ++ kk

/-- Format XY, with `n` the low nibble. -/
def wordXY (f : Nibble) (x y n : Fin 16) : Word :=
  f ++ (BitVec.ofFin x : Nibble) ++ (BitVec.ofFin y : Nibble) ++ (BitVec.ofFin n : Nibble)

/-- The canonical word of an instruction (R82, R83). -/
def encode : Instr → Word
  | .cls => 0x00E0
  | .ret => 0x00EE
  | .jp nnn => wordA 0x1 nnn
  | .call nnn => wordA 0x2 nnn
  | .jpV0 nnn => wordA 0xB nnn
  | .seImm x kk => wordXK 0x3 x kk
  | .sneImm x kk => wordXK 0x4 x kk
  | .seReg x y => wordXY 0x5 x y 0
  | .sneReg x y => wordXY 0x9 x y 0
  | .skp x => wordXK 0xE x 0x9E
  | .sknp x => wordXK 0xE x 0xA1
  | .ldImm x kk => wordXK 0x6 x kk
  | .addImm x kk => wordXK 0x7 x kk
  | .ldReg x y => wordXY 0x8 x y 0x0
  | .orReg x y => wordXY 0x8 x y 0x1
  | .andReg x y => wordXY 0x8 x y 0x2
  | .xorReg x y => wordXY 0x8 x y 0x3
  | .addReg x y => wordXY 0x8 x y 0x4
  | .subReg x y => wordXY 0x8 x y 0x5
  | .subnReg x y => wordXY 0x8 x y 0x7
  | .shr x => wordXY 0x8 x 0 0x6
  | .shl x => wordXY 0x8 x 0 0xE
  | .rnd x kk => wordXK 0xC x kk
  | .ldI nnn => wordA 0xA nnn
  | .addI x => wordXK 0xF x 0x1E
  | .ldF x => wordXK 0xF x 0x29
  | .ldB x => wordXK 0xF x 0x33
  | .stRegs x => wordXK 0xF x 0x55
  | .ldRegs x => wordXK 0xF x 0x65
  | .drw x y n => wordXY 0xD x y n
  | .ldVxDt x => wordXK 0xF x 0x07
  | .ldDt x => wordXK 0xF x 0x15
  | .ldSt x => wordXK 0xF x 0x18
  | .ldKey x => wordXK 0xF x 0x0A

/-! ### The opcode map of R82 as a table -/

/-- One row of R82: a word `w` selects it when `w &&& mask = bits`; `build` reads its operands (R74). -/
structure OpcodeRow where
  mnemonic : String
  mask : Word
  bits : Word
  build : Word → Instr

/-- Whether a word selects a row (R82). -/
def OpcodeRow.selects (r : OpcodeRow) (w : Word) : Bool := w &&& r.mask = r.bits

/-- The rows of control flow (40_control_flow.md). -/
def controlRows : List OpcodeRow :=
  [ ⟨"CLS", 0xF0FF, 0x00E0, fun _ => .cls⟩,
    ⟨"RET", 0xF0FF, 0x00EE, fun _ => .ret⟩,
    ⟨"JP", 0xF000, 0x1000, fun w => .jp (nnnOf w)⟩,
    ⟨"CALL", 0xF000, 0x2000, fun w => .call (nnnOf w)⟩,
    ⟨"JP_V0", 0xF000, 0xB000, fun w => .jpV0 (nnnOf w)⟩,
    ⟨"SE_IMM", 0xF000, 0x3000, fun w => .seImm (xOf w) (kkOf w)⟩,
    ⟨"SNE_IMM", 0xF000, 0x4000, fun w => .sneImm (xOf w) (kkOf w)⟩,
    ⟨"SE_REG", 0xF000, 0x5000, fun w => .seReg (xOf w) (yOf w)⟩,
    ⟨"SNE_REG", 0xF000, 0x9000, fun w => .sneReg (xOf w) (yOf w)⟩,
    ⟨"SKP", 0xF0FF, 0xE09E, fun w => .skp (xOf w)⟩,
    ⟨"SKNP", 0xF0FF, 0xE0A1, fun w => .sknp (xOf w)⟩ ]

/-- The rows of register and arithmetic operations (41_register_arithmetic.md). -/
def arithRows : List OpcodeRow :=
  [ ⟨"LD_IMM", 0xF000, 0x6000, fun w => .ldImm (xOf w) (kkOf w)⟩,
    ⟨"ADD_IMM", 0xF000, 0x7000, fun w => .addImm (xOf w) (kkOf w)⟩,
    ⟨"LD_REG", 0xF00F, 0x8000, fun w => .ldReg (xOf w) (yOf w)⟩,
    ⟨"OR", 0xF00F, 0x8001, fun w => .orReg (xOf w) (yOf w)⟩,
    ⟨"AND", 0xF00F, 0x8002, fun w => .andReg (xOf w) (yOf w)⟩,
    ⟨"XOR", 0xF00F, 0x8003, fun w => .xorReg (xOf w) (yOf w)⟩,
    ⟨"ADD_REG", 0xF00F, 0x8004, fun w => .addReg (xOf w) (yOf w)⟩,
    ⟨"SUB", 0xF00F, 0x8005, fun w => .subReg (xOf w) (yOf w)⟩,
    ⟨"SUBN", 0xF00F, 0x8007, fun w => .subnReg (xOf w) (yOf w)⟩,
    ⟨"SHR", 0xF00F, 0x8006, fun w => .shr (xOf w)⟩,
    ⟨"SHL", 0xF00F, 0x800E, fun w => .shl (xOf w)⟩,
    ⟨"RND", 0xF000, 0xC000, fun w => .rnd (xOf w) (kkOf w)⟩ ]

/-- The rows of memory, display, timers and input (42_memory_index.md, 43_display.md, 44_timers_input.md). -/
def memoryRows : List OpcodeRow :=
  [ ⟨"LD_I", 0xF000, 0xA000, fun w => .ldI (nnnOf w)⟩,
    ⟨"ADD_I", 0xF0FF, 0xF01E, fun w => .addI (xOf w)⟩,
    ⟨"LD_F", 0xF0FF, 0xF029, fun w => .ldF (xOf w)⟩,
    ⟨"LD_B", 0xF0FF, 0xF033, fun w => .ldB (xOf w)⟩,
    ⟨"ST_REGS", 0xF0FF, 0xF055, fun w => .stRegs (xOf w)⟩,
    ⟨"LD_REGS", 0xF0FF, 0xF065, fun w => .ldRegs (xOf w)⟩,
    ⟨"DRW", 0xF000, 0xD000, fun w => .drw (xOf w) (yOf w) (nOf w)⟩,
    ⟨"LD_VX_DT", 0xF0FF, 0xF007, fun w => .ldVxDt (xOf w)⟩,
    ⟨"LD_DT", 0xF0FF, 0xF015, fun w => .ldDt (xOf w)⟩,
    ⟨"LD_ST", 0xF0FF, 0xF018, fun w => .ldSt (xOf w)⟩,
    ⟨"LD_KEY", 0xF0FF, 0xF00A, fun w => .ldKey (xOf w)⟩ ]

/-- The opcode map of R82, in the spec's order. -/
def opcodeTable : List OpcodeRow := controlRows ++ arithRows ++ memoryRows

/-- The name of an instruction's row in the opcode map (R82). -/
def Instr.mnemonic : Instr → String
  | .cls => "CLS"
  | .ret => "RET"
  | .jp _ => "JP"
  | .call _ => "CALL"
  | .jpV0 _ => "JP_V0"
  | .seImm _ _ => "SE_IMM"
  | .sneImm _ _ => "SNE_IMM"
  | .seReg _ _ => "SE_REG"
  | .sneReg _ _ => "SNE_REG"
  | .skp _ => "SKP"
  | .sknp _ => "SKNP"
  | .ldImm _ _ => "LD_IMM"
  | .addImm _ _ => "ADD_IMM"
  | .ldReg _ _ => "LD_REG"
  | .orReg _ _ => "OR"
  | .andReg _ _ => "AND"
  | .xorReg _ _ => "XOR"
  | .addReg _ _ => "ADD_REG"
  | .subReg _ _ => "SUB"
  | .subnReg _ _ => "SUBN"
  | .shr _ => "SHR"
  | .shl _ => "SHL"
  | .rnd _ _ => "RND"
  | .ldI _ => "LD_I"
  | .addI _ => "ADD_I"
  | .ldF _ => "LD_F"
  | .ldB _ => "LD_B"
  | .stRegs _ => "ST_REGS"
  | .ldRegs _ => "LD_REGS"
  | .drw _ _ _ => "DRW"
  | .ldVxDt _ => "LD_VX_DT"
  | .ldDt _ => "LD_DT"
  | .ldSt _ => "LD_ST"
  | .ldKey _ => "LD_KEY"

end Sys2Proof
end

