-- ==== Sys2Proof/Config.lean ====
section
/-! DEFINITION. What the spec leaves open as a parameter of the hardware (00_scope.md R6, 92_eei_decisions.md D8, D14).
Both constants have no body: no proof can see a value, so a theorem holds for every value. -/

namespace Sys2Proof

/-- Which write to `V[15]` survives when X = 15 in an instruction that writes a result and a flag (10_state.md R37). -/
inductive VfOrder where
  | flagLast
  | resultLast
  deriving DecidableEq, Repr, Inhabited

/-- VF_ORDER, OPEN (R37, D8; log entry 3). Free value: safe. -/
opaque Config.vfOrder : VfOrder

/-- The byte `rnd` that the `k`-th executed Random draws (R132, R176, D14: any value, no law; log entry 4).
Free value: safe. -/
opaque Config.rnd : Nat → Byte

end Sys2Proof
end

