-- ==== Sys2Proof/Machine/ResetValues.lean ====
section
/-! DEFINITION. The values the machine holds after reset (10_state.md R33, R34), one definition each. -/

namespace Sys2Proof.Machine

/-- The 16 glyphs of R33's default table, digit 0 first, top row first. The spec marks the bytes as general knowledge
(G4). PRESUMED, unsafe (log entry 2). -/
def glyphRows : List (List Byte) :=
  [ [0xF0, 0x90, 0x90, 0x90, 0xF0], [0x20, 0x60, 0x20, 0x20, 0x70],
    [0xF0, 0x10, 0xF0, 0x80, 0xF0], [0xF0, 0x10, 0xF0, 0x10, 0xF0],
    [0x90, 0x90, 0xF0, 0x10, 0x10], [0xF0, 0x80, 0xF0, 0x10, 0xF0],
    [0xF0, 0x80, 0xF0, 0x90, 0xF0], [0xF0, 0x10, 0x20, 0x40, 0x40] ] ++
  [ [0xF0, 0x90, 0xF0, 0x90, 0xF0], [0xF0, 0x90, 0xF0, 0x10, 0xF0],
    [0xF0, 0x90, 0xF0, 0x90, 0x90], [0xE0, 0x90, 0xE0, 0x90, 0xE0],
    [0xF0, 0x80, 0x80, 0x80, 0xF0], [0xE0, 0x90, 0x90, 0x90, 0xE0],
    [0xF0, 0x80, 0xF0, 0x80, 0xF0], [0xF0, 0x80, 0xF0, 0x80, 0x80] ]

/-- The default GLYPH_ROM (R6, R33, D13). -/
def glyphRomDefault : Vector Byte 80 := ⟨⟨glyphRows.flatten⟩, by decide⟩

/-- PROG_BASE (R5): `pc` after reset and after every load, and where the program is loaded (R51, R201). -/
def progBase : Nat := 0x200

/-- `pc` after reset (R23, R34). -/
def resetPc : Word := 0x0200

/-- A general register after reset (R34, D12). DESIGN CHOICE of the spec, unsafe (log entry 6). -/
def resetReg : Byte := 0

/-- `I` and every stack slot after reset (R34, D12). DESIGN CHOICE of the spec, unsafe (log entry 6). -/
def resetWord : Word := 0

/-- `SP` after reset (R34: implied by the source). -/
def resetSp : Fin 17 := 0

/-- `DT` and `ST` after reset (R34, D12). DESIGN CHOICE of the spec, unsafe (log entry 6). -/
def resetTimer : Byte := 0

/-- A framebuffer cell after reset (R34, D12). DESIGN CHOICE of the spec, unsafe (log entry 6). -/
def resetPixel : Bool := false

/-- A key flag when the host has never written it: not pressed (R34, D12, R173; log entries 5, 6). -/
def resetKey : Bool := false

/-- A byte of `MEM[0x050..0xFFF]` after reset (R34, D12). DESIGN CHOICE of the spec, unsafe (log entry 6). -/
def resetByte : Byte := 0

end Sys2Proof.Machine
end

