-- ==== Sys2Proof/Machine/State.lean ====
section
/-! DEFINITION. The machine's state (10_state.md), the reasons a step can stop, and the state after reset. -/

namespace Sys2Proof.Machine

/-- A fault of the hardware (60_exceptions.md R180). It is taken: it is latched in `State.fault` and the step answers a
next state. -/
inductive FaultCause where
  /-- Code 1: a Call with `SP` = 16 (R181). -/
  | stackOverflow
  /-- Code 2: a Return with `SP` = 0 (R182). -/
  | stackUnderflow
  /-- Code 3: an effective address above 0xFFF (20_memory.md R58). -/
  | memoryOutOfRange
  /-- Code 4: a key index above 15 (40_control_flow.md R109, R110). -/
  | keyIndexOutOfRange
  deriving DecidableEq, Repr

/-- The record the latch FAULT holds: the cause and its info value (R32, R180). -/
structure FaultRecord where
  cause : FaultCause
  info : Nat
  deriving DecidableEq, Repr

/-- `MEM` (R25, R50), in one canonical form (log entry 12): `cells` lists the bytes that differ from the reset contents,
by strictly rising address. `glyphs` is the parameter GLYPH_ROM (R6, D13; log entry 2): part of the reset contents,
changed by nothing. -/
structure Memory where
  glyphs : Vector Byte 80
  cells : List Host.Cell
  deriving DecidableEq, Repr

/-- `FB[row][column]`, true = lit (R30). -/
abbrev Framebuffer := Vector (Vector Bool 64) 32

/-- Everything the spec gives the machine (R20 to R35), and the model's own counter `draws`. -/
structure State where
  /-- `V[0..15]` (R20, R21) -/
  v : Vector Byte 16
  /-- `I` (R24) -/
  i : Word
  /-- `pc` (R23) -/
  pc : Word
  /-- `SP`, the number of return addresses on the stack, 0 to 16 (R27) -/
  sp : Fin 17
  /-- `STACK[0..15]` (R26) -/
  stack : Vector Word 16
  /-- `DT` (R28) -/
  dt : Byte
  /-- `ST` (R28) -/
  st : Byte
  /-- `MEM` (R25) -/
  mem : Memory
  /-- `FB` (R30) -/
  fb : Framebuffer
  /-- `KEYS[0..15]`, true = pressed; only the host writes it (R31, R173) -/
  keys : Vector Bool 16
  /-- `FAULT` (R32) -/
  fault : Option FaultRecord
  /-- The model's own: how many Random instructions have executed; names the next free byte `rnd` (R176; log entry 4) -/
  draws : Nat
  deriving DecidableEq, Repr

/-- The faults that end a run outside the machine: none. Every fault of the spec (R180) has a described effect, so it is
taken as a next state (R183, R184; log entry 7), and this type has no constructor. -/
inductive Fault where
  deriving DecidableEq, Repr

/-- The refusals: none of them is raised by an instruction of this model. -/
inductive Refusal where
  /-- Raised only by an arm of `exec` that has no meaning yet. Safe. -/
  | notModelled (mnemonic : String)
  deriving DecidableEq, Repr

/-- The state after reset of a machine whose GLYPH_ROM is `glyphs` (R33, R34, R200). -/
def State.resetWith (glyphs : Vector Byte 80) : State where
  v := Vector.replicate 16 resetReg
  i := resetWord
  pc := resetPc
  sp := resetSp
  stack := Vector.replicate 16 resetWord
  dt := resetTimer
  st := resetTimer
  mem := ⟨glyphs, []⟩
  fb := Vector.replicate 32 (Vector.replicate 64 resetPixel)
  keys := Vector.replicate 16 resetKey
  fault := none
  draws := 0

/-- The machine right after reset, with the default GLYPH_ROM (R34). -/
def State.reset : State := State.resetWith glyphRomDefault

end Sys2Proof.Machine
end

