-- ==== Sys2Proof/Machine/Ops.lean ====
section
/-! DEFINITION. The named operations over the state: field updates, registers, memory and its range check, the stack,
taking a fault, and the parts of a cycle around the instruction. -/

namespace Sys2Proof.Machine

/-- What executing an instruction answers. -/
abbrev Result := Host.Outcome State Fault Refusal

/-! ### Field updates -/

def State.setV (s : State) (a : Vector Byte 16) : State := { s with v := a }
def State.setI (s : State) (a : Word) : State := { s with i := a }
def State.setPc (s : State) (a : Word) : State := { s with pc := a }
def State.setSp (s : State) (a : Fin 17) : State := { s with sp := a }
def State.setStack (s : State) (a : Vector Word 16) : State := { s with stack := a }
def State.setDt (s : State) (a : Byte) : State := { s with dt := a }
def State.setSt (s : State) (a : Byte) : State := { s with st := a }
def State.setMem (s : State) (a : Memory) : State := { s with mem := a }
def State.setFb (s : State) (a : Framebuffer) : State := { s with fb := a }
def State.setKeys (s : State) (a : Vector Bool 16) : State := { s with keys := a }
def State.setFault (s : State) (a : Option FaultRecord) : State := { s with fault := a }
def State.setDraws (s : State) (a : Nat) : State := { s with draws := a }

/-! ### General registers (R20: none is hardwired) -/

/-- `V[x]`. -/
abbrev State.readReg (s : State) (x : RegIdx) : Byte := s.v[x]

/-- `V[x] <- b`. -/
def State.writeReg (s : State) (x : RegIdx) (b : Byte) : State := s.setV (s.v.set x b)

/-! ### Memory (R25, R50 to R58) -/

/-- MEM_SIZE (R5): addresses 0x000 to 0xFFF exist. -/
def memSize : Nat := 0x1000

/-- What an address that lists no byte reads as: the reset contents (R33, R34). Glyphs below 0x050, zero above. -/
def Memory.unlisted (glyphs : Vector Byte 80) (a : Nat) : Byte :=
  if h : a < 80 then glyphs[a] else resetByte

/-- The listed byte at an address, if any. -/
def lookupCell (a : Nat) : List Host.Cell → Option Byte
  | [] => none
  | c :: cs => if c.1 = a then some c.2 else lookupCell a cs

/-- The byte at an address (R55). Range checks come first (`rangeFault`). -/
def Memory.read (m : Memory) (a : Nat) : Byte :=
  (lookupCell a m.cells).getD (Memory.unlisted m.glyphs a)

/-- A list of cells in rising order with the byte at `a` put to `b`. -/
def insertCell (a : Nat) (b : Byte) : List Host.Cell → List Host.Cell
  | [] => [(a, b)]
  | c :: cs =>
    if a < c.1 then (a, b) :: c :: cs
    else if a = c.1 then (a, b) :: cs
    else c :: insertCell a b cs

/-- A list of cells without an entry at `a`. -/
def eraseCell (a : Nat) : List Host.Cell → List Host.Cell
  | [] => []
  | c :: cs => if c.1 = a then eraseCell a cs else c :: eraseCell a cs

/-- Storing one byte; storing what an unlisted address reads as removes the entry (log entry 12). -/
def Memory.write (m : Memory) (a : Nat) (b : Byte) : Memory :=
  if b = Memory.unlisted m.glyphs a then ⟨m.glyphs, eraseCell a m.cells⟩
  else ⟨m.glyphs, insertCell a b m.cells⟩

/-- The canonical form: strictly rising addresses inside MEM, and no byte that an unlisted address reads as. -/
abbrev Memory.wf (m : Memory) : Prop :=
  m.cells.Pairwise (fun c d => c.1 < d.1) ∧
    ∀ c ∈ m.cells, c.1 < memSize ∧ c.2 ≠ Memory.unlisted m.glyphs c.1

/-- The `n` bytes at `a`, `a + 1`, ... in ascending order (R54, R55, R57). -/
def Memory.readBytes (m : Memory) (a n : Nat) : List Byte :=
  (List.range n).map (fun k => m.read (a + k))

/-- Bytes stored at `a`, `a + 1`, ... in ascending order (R54, R55, R57). -/
def Memory.writeBytes (m : Memory) (a : Nat) : List Byte → Memory
  | [] => m
  | b :: bs => (m.write a b).writeBytes (a + 1) bs

/-- The range check of R58 on the `n` addresses from `a`, exact integers (R57): the lowest one above 0xFFF, if any.
An access of zero bytes touches no address. -/
def rangeFault (a n : Nat) : Option Nat :=
  if 0 < n ∧ 0xFFF < a + n - 1 then some (max a 0x1000) else none

/-! ### Taking a fault (R183), the one way out of it being reset (R190: there is no return from a fault) -/

/-- Latch FAULT; the first fault stays (R32). -/
def State.latchFault (s : State) (f : FaultRecord) : State := s.setFault (some (s.fault.getD f))

/-- A fault raised by an executing instruction: FAULT is latched and the pc advance of fetch is undone, so `pc` is the
instruction's own address; nothing else changes (R183). -/
def State.raise (s : State) (f : FaultRecord) : State := (s.setPc (s.pc - 2)).latchFault f

/-- `raise MemoryOutOfRange(a)`. -/
def State.raiseMemory (s : State) (a : Nat) : State := s.raise ⟨.memoryOutOfRange, a⟩

/-- `raise KeyIndexOutOfRange(k)`. -/
def State.raiseKey (s : State) (k : Nat) : State := s.raise ⟨.keyIndexOutOfRange, k⟩

/-! ### Control flow -/

/-- A taken skip moves `pc` by 2 more (40_control_flow.md section 6; D25: modulo 2^16). -/
def State.skipIf (s : State) (c : Bool) : State := if c then s.setPc (s.pc + 2) else s

/-- CALL's push and jump, or `StackOverflow` (R103, R181). -/
def State.pushAndJump (s : State) (target : Word) : State :=
  if h : s.sp.val < 16 then
    ((s.setStack (s.stack.set s.sp.val s.pc)).setSp ⟨s.sp.val + 1, by omega⟩).setPc target
  else s.raise ⟨.stackOverflow, 0⟩

/-- RET's pop, or `StackUnderflow` (R101, R182). The slot keeps its value. -/
def State.popToPc (s : State) : State :=
  if h : s.sp.val = 0 then s.raise ⟨.stackUnderflow, 0⟩
  else (s.setSp ⟨s.sp.val - 1, by omega⟩).setPc (s.stack[s.sp.val - 1]'(by omega))

/-! ### The parts of a cycle (30_encoding.md R70 to R72) -/

/-- Fetch: the big-endian word at `pc`, or the lowest out-of-range fetch address (R54, R70). -/
def State.fetch (s : State) : Except Nat Word :=
  match rangeFault s.pc.toNat 2 with
  | some a => .error a
  | none => .ok (s.mem.read s.pc.toNat ++ s.mem.read (s.pc.toNat + 1))

/-- The pc advance before dispatch (R71). -/
def State.advancePc (s : State) : State := s.setPc (s.pc + 2)

/-- A fault in fetch: FAULT is latched and `pc` stays, since fetch has not advanced it (R70, R183). -/
def State.fetchFault (s : State) (a : Nat) : State := s.latchFault ⟨.memoryOutOfRange, a⟩

/-- One timer's decay: by 1, saturating at 0 (R28, R164). -/
def decayTimer (t : Byte) : Byte := if 0 < t.toNat then t - 1 else t

/-- The decay of both timers (R164). -/
def State.decay (s : State) : State := (s.setDt (decayTimer s.dt)).setSt (decayTimer s.st)

/-- The end of a cycle: the timers decay unless the cycle faulted (R72, R164, R183). -/
def finishCycle : Result → Result
  | .next t => .next (if t.fault.isSome then t else t.decay)
  | .fault r => .fault r
  | .refused r => .refused r

/-- A no-op word: nothing beyond the pc advance and the timer decay of every cycle (R81). -/
def noOperation (_ : Word) (s : State) : Result := .next s

/-- The cycle of a halted machine: no state change (R184). -/
def haltedCycle (s : State) : Result := .next s

end Sys2Proof.Machine
end

