-- ==== Sys2Proof/Machine/Operands.lean ====
section
/-! DEFINITION. Operand forms: addresses, key indices, register ranges and screen positions. -/

namespace Sys2Proof.Machine

/-- The absolute 12-bit address operand, zero-extended to 16 bits (R74, R102, R140). -/
def absolute (nnn : Addr12) : Word := nnn.zeroExtend 16

/-- Jump-with-offset's address: NNN + `V[0]`, not reduced to 12 bits (R104). -/
def State.offsetAddress (s : State) (nnn : Addr12) : Word := absolute nnn + (s.readReg 0).zeroExtend 16

/-- The base address of an `I`-based access, an exact integer (R57; 42_memory_index.md section 2). -/
abbrev State.base (s : State) : Nat := s.i.toNat

/-- The registers 0 through x inclusive, in order (R144). -/
def State.regsThrough (s : State) (x : RegIdx) : List Byte := s.v.toList.take (x.val + 1)

/-- The registers after loading 0 through x from memory at `I` (R145). -/
def State.regsLoaded (s : State) (x : RegIdx) : Vector Byte 16 :=
  Vector.ofFn fun k : Fin 16 => if k.val ≤ x.val then s.mem.read (s.base + k.val) else s.readReg k

/-- The three decimal digits of a byte: hundreds, tens, ones (R143). -/
def bcdDigits (b : Byte) : List Byte :=
  [BitVec.ofNat 8 (b.toNat / 100), BitVec.ofNat 8 (b.toNat / 10 % 10), BitVec.ofNat 8 (b.toNat % 10)]

/-- The address of the glyph of a value: 5 times the whole byte (R142, D17). -/
def glyphAddress (b : Byte) : Word := BitVec.ofNat 16 (5 * b.toNat)

/-- The level of the key whose index is `V[x]`; `none` when the index is above 15 (R109, R110). -/
def State.keyOf (s : State) (x : RegIdx) : Option Bool := s.keys[(s.readReg x).toNat]?

/-- The least pressed key, scanning 0 to 15 upward (R163). -/
def State.leastKey (s : State) : Option (Fin 16) := (List.finRange 16).find? (fun k => s.keys[k])

/-- The starting column: `V[x]` mod 64 (R150). -/
def State.startColumn (s : State) (x : RegIdx) : Nat := (s.readReg x).toNat % 64

/-- The starting row: `V[y]` mod 32 (R150). -/
def State.startRow (s : State) (y : RegIdx) : Nat := (s.readReg y).toNat % 32

end Sys2Proof.Machine
end

