-- ==== Sys2Proof/Machine/Flags.lean ====
section
/-! DEFINITION. Results and flags of the arithmetic unit (41_register_arithmetic.md), and the order in which both are
written (10_state.md R37). -/

namespace Sys2Proof.Machine

/-- FLAG_REG (R5, R21). -/
def flagReg : RegIdx := 15

/-- A flag is written as the whole byte 0x00 or 0x01 (R131). -/
def flagByte (c : Bool) : Byte := if c then 1 else 0

/-- Add-with-carry: the low 8 bits of the sum, and whether it exceeds 255 (R126). -/
def addResult (a b : Byte) : Byte := a + b
def addFlag (a b : Byte) : Bool := 255 < a.toNat + b.toNat

/-- Subtract `a - b`: modulo 256, and whether `a` is strictly greater (R127, 90_conflicts.md C1). -/
def subResult (a b : Byte) : Byte := a - b
def subFlag (a b : Byte) : Bool := b.toNat < a.toNat

/-- Shift right by 1, and the bit shifted out (R129). -/
def shrResult (a : Byte) : Byte := a >>> 1
def shrFlag (a : Byte) : Bool := a.getLsbD 0

/-- Shift left by 1, and the bit shifted out (R130). -/
def shlResult (a : Byte) : Byte := a <<< 1
def shlFlag (a : Byte) : Bool := a.getLsbD 7

/-- Writing a result to `V[x]` and a flag to `V[15]` in a given order; the later write survives when x = 15 (R37). -/
def State.writeBoth (s : State) (order : VfOrder) (x : RegIdx) (res : Byte) (flag : Bool) : State :=
  match order with
  | .flagLast => (s.writeReg x res).writeReg flagReg (flagByte flag)
  | .resultLast => (s.writeReg flagReg (flagByte flag)).writeReg x res

/-- The same in this machine's order VF_ORDER (R37, D8; log entry 3). -/
def State.writeResultFlag (s : State) (x : RegIdx) (res : Byte) (flag : Bool) : State :=
  s.writeBoth Config.vfOrder x res flag

end Sys2Proof.Machine
end

