-- ==== Sys2Proof/Machine/Arithmetic.lean ====
section
/-! DEFINITION. Register and arithmetic operations (41_register_arithmetic.md R120 to R132). `V[x]` is the destination and
first operand, `V[y]` the second; only the operations with a flag write `V[15]` besides (R21, R131). -/

namespace Sys2Proof.Machine

/-- LD Vx, byte (R120). -/
def execLdImm (x : RegIdx) (kk : Byte) (s : State) : Result := .next (s.writeReg x kk)

/-- ADD Vx, byte (R121): modulo 256, no flag. -/
def execAddImm (x : RegIdx) (kk : Byte) (s : State) : Result := .next (s.writeReg x (s.readReg x + kk))

/-- LD Vx, Vy (R122). -/
def execLdReg (x y : RegIdx) (s : State) : Result := .next (s.writeReg x (s.readReg y))

/-- OR Vx, Vy (R123). -/
def execOrReg (x y : RegIdx) (s : State) : Result := .next (s.writeReg x (s.readReg x ||| s.readReg y))

/-- AND Vx, Vy (R124). -/
def execAndReg (x y : RegIdx) (s : State) : Result := .next (s.writeReg x (s.readReg x &&& s.readReg y))

/-- XOR Vx, Vy (R125). -/
def execXorReg (x y : RegIdx) (s : State) : Result := .next (s.writeReg x (s.readReg x ^^^ s.readReg y))

/-- ADD Vx, Vy (R126). -/
def execAddReg (x y : RegIdx) (s : State) : Result :=
  .next (s.writeResultFlag x (addResult (s.readReg x) (s.readReg y)) (addFlag (s.readReg x) (s.readReg y)))

/-- SUB Vx, Vy (R127). -/
def execSubReg (x y : RegIdx) (s : State) : Result :=
  .next (s.writeResultFlag x (subResult (s.readReg x) (s.readReg y)) (subFlag (s.readReg x) (s.readReg y)))

/-- SUBN Vx, Vy (R128): the operands exchanged, the destination still `V[x]`. -/
def execSubnReg (x y : RegIdx) (s : State) : Result :=
  .next (s.writeResultFlag x (subResult (s.readReg y) (s.readReg x)) (subFlag (s.readReg y) (s.readReg x)))

/-- SHR Vx (R129). -/
def execShr (x : RegIdx) (s : State) : Result :=
  .next (s.writeResultFlag x (shrResult (s.readReg x)) (shrFlag (s.readReg x)))

/-- SHL Vx (R130). -/
def execShl (x : RegIdx) (s : State) : Result :=
  .next (s.writeResultFlag x (shlResult (s.readReg x)) (shlFlag (s.readReg x)))

/-- RND Vx, byte with the drawn byte given (R132). -/
def randomWith (r : Byte) (x : RegIdx) (kk : Byte) (s : State) : State := s.writeReg x (r &&& kk)

/-- RND Vx, byte (R132, R176): a fresh free draw (log entry 4). -/
def execRnd (x : RegIdx) (kk : Byte) (s : State) : Result :=
  .next ((randomWith (Config.rnd s.draws) x kk s).setDraws (s.draws + 1))

end Sys2Proof.Machine
end

