-- ==== Sys2Proof/Machine/ControlFlow.lean ====
section
/-! DEFINITION. Control-flow operations (40_control_flow.md R100 to R110). In every meaning `pc` is already the
instruction's own address plus 2 (R71). -/

namespace Sys2Proof.Machine

/-- CLS (R100): every framebuffer cell to 0. -/
def execCls (s : State) : Result := .next (s.setFb (Vector.replicate 32 (Vector.replicate 64 false)))

/-- RET (R101). -/
def execRet (s : State) : Result := .next s.popToPc

/-- JP addr (R102). -/
def execJp (nnn : Addr12) (s : State) : Result := .next (s.setPc (absolute nnn))

/-- CALL addr (R103): pushes the advanced `pc`. -/
def execCall (nnn : Addr12) (s : State) : Result := .next (s.pushAndJump (absolute nnn))

/-- JP V0, addr (R104). -/
def execJpV0 (nnn : Addr12) (s : State) : Result := .next (s.setPc (s.offsetAddress nnn))

/-- SE Vx, byte (R105). -/
def execSeImm (x : RegIdx) (kk : Byte) (s : State) : Result := .next (s.skipIf (s.readReg x == kk))

/-- SNE Vx, byte (R106). -/
def execSneImm (x : RegIdx) (kk : Byte) (s : State) : Result := .next (s.skipIf (s.readReg x != kk))

/-- SE Vx, Vy (R107). -/
def execSeReg (x y : RegIdx) (s : State) : Result := .next (s.skipIf (s.readReg x == s.readReg y))

/-- SNE Vx, Vy (R108). -/
def execSneReg (x y : RegIdx) (s : State) : Result := .next (s.skipIf (s.readReg x != s.readReg y))

/-- SKP Vx (R109): faults when the key index is above 15. -/
def execSkp (x : RegIdx) (s : State) : Result :=
  match s.keyOf x with
  | some down => .next (s.skipIf down)
  | none => .next (s.raiseKey (s.readReg x).toNat)

/-- SKNP Vx (R110). -/
def execSknp (x : RegIdx) (s : State) : Result :=
  match s.keyOf x with
  | some down => .next (s.skipIf !down)
  | none => .next (s.raiseKey (s.readReg x).toNat)

end Sys2Proof.Machine
end

