-- ==== Sys2Proof/Machine/Display.lean ====
section
/-! DEFINITION. The sprite draw (43_display.md R150, R151), pixel by pixel as the spec's pseudocode has it. -/

namespace Sys2Proof.Machine

/-- The framebuffer and the collision flag while a sprite is drawn. -/
structure Canvas where
  fb : Framebuffer
  collided : Bool
  deriving DecidableEq, Repr

/-- `FB[row][column]`. -/
def Framebuffer.pixel (fb : Framebuffer) (r : Fin 32) (c : Fin 64) : Bool := fb[r][c]

/-- The framebuffer with one cell replaced. -/
def Framebuffer.setPixel (fb : Framebuffer) (r : Fin 32) (c : Fin 64) (p : Bool) : Framebuffer :=
  fb.set r (fb[r].set c p)

/-- One sprite bit at row `y`, column `x`: outside the screen it is clipped, a 0 bit leaves the cell, a 1 bit toggles it
and reports a cell that goes from set to unset (R150, R151). -/
def Canvas.plot (d : Canvas) (y x : Nat) (bit : Bool) : Canvas :=
  if h : y < 32 ∧ x < 64 then
    if bit then
      let old := Framebuffer.pixel d.fb ⟨y, h.1⟩ ⟨x, h.2⟩
      ⟨Framebuffer.setPixel d.fb ⟨y, h.1⟩ ⟨x, h.2⟩ !old, d.collided || old⟩
    else d
  else d

/-- One sprite byte: columns 0 to 7, most significant bit first (R150). -/
def Canvas.plotRow (d : Canvas) (y x0 : Nat) (b : Byte) : Canvas :=
  (List.range 8).foldl (fun d c => d.plot y (x0 + c) (b.getLsbD (7 - c))) d

/-- The sprite bytes, top row first (R150). -/
def Canvas.plotRows (d : Canvas) (y x0 : Nat) : List Byte → Canvas
  | [] => d
  | b :: bs => (d.plotRow y x0 b).plotRows (y + 1) x0 bs

/-- The screen after drawing `rows` at (`y0`, `x0`), and whether a cell went from set to unset. -/
def Framebuffer.drawSprite (fb : Framebuffer) (y0 x0 : Nat) (rows : List Byte) : Canvas :=
  (Canvas.mk fb false).plotRows y0 x0 rows

/-- DRW Vx, Vy, nibble (R151): all N addresses are checked, clipped rows included (D11); N = 0 draws nothing and clears
VF (D20). -/
def execDrw (x y : RegIdx) (n : Fin 16) (s : State) : Result :=
  match rangeFault s.base n.val with
  | some a => .next (s.raiseMemory a)
  | none =>
    let d := Framebuffer.drawSprite s.fb (s.startRow y) (s.startColumn x) (s.mem.readBytes s.base n.val)
    .next ((s.setFb d.fb).writeReg flagReg (flagByte d.collided))

end Sys2Proof.Machine
end

