-- ==== Sys2Proof/Machine/MemoryIndex.lean ====
section
/-! DEFINITION. Memory and index operations (42_memory_index.md R140 to R145). Every address is range-checked before the
first write (R58); none of them but the first three writes `I` (D19). -/

namespace Sys2Proof.Machine

/-- LD I, addr (R140). -/
def execLdI (nnn : Addr12) (s : State) : Result := .next (s.setI (absolute nnn))

/-- ADD I, Vx (R141): modulo 2^16, no flag, no range check. -/
def execAddI (x : RegIdx) (s : State) : Result := .next (s.setI (s.i + (s.readReg x).zeroExtend 16))

/-- LD F, Vx (R142). -/
def execLdF (x : RegIdx) (s : State) : Result := .next (s.setI (glyphAddress (s.readReg x)))

/-- LD B, Vx (R143). -/
def execLdB (x : RegIdx) (s : State) : Result :=
  match rangeFault s.base 3 with
  | some a => .next (s.raiseMemory a)
  | none => .next (s.setMem (s.mem.writeBytes s.base (bcdDigits (s.readReg x))))

/-- LD [I], Vx (R144). -/
def execStRegs (x : RegIdx) (s : State) : Result :=
  match rangeFault s.base (x.val + 1) with
  | some a => .next (s.raiseMemory a)
  | none => .next (s.setMem (s.mem.writeBytes s.base (s.regsThrough x)))

/-- LD Vx, [I] (R145). -/
def execLdRegs (x : RegIdx) (s : State) : Result :=
  match rangeFault s.base (x.val + 1) with
  | some a => .next (s.raiseMemory a)
  | none => .next (s.setV (s.regsLoaded x))

end Sys2Proof.Machine
end

