-- ==== Sys2Proof/Machine/TimersInput.lean ====
section
/-! DEFINITION. Timers and input wait (44_timers_input.md R160 to R163). The timer decay of the same cycle follows the
instruction (R164). -/

namespace Sys2Proof.Machine

/-- LD Vx, DT (R160): the value before this cycle's decay. -/
def execLdVxDt (x : RegIdx) (s : State) : Result := .next (s.writeReg x s.dt)

/-- LD DT, Vx (R161). -/
def execLdDt (x : RegIdx) (s : State) : Result := .next (s.setDt (s.readReg x))

/-- LD ST, Vx (R162). -/
def execLdSt (x : RegIdx) (s : State) : Result := .next (s.setSt (s.readReg x))

/-- LD Vx, K (R163): the least pressed key, or `pc` back to this instruction. -/
def execLdKey (x : RegIdx) (s : State) : Result :=
  match s.leastKey with
  | some k => .next (s.writeReg x (BitVec.ofNat 8 k.val))
  | none => .next (s.setPc (s.pc - 2))

end Sys2Proof.Machine
end

