-- ==== Sys2Proof/Machine/Step.lean ====
section
/-! DEFINITION. One cycle (30_encoding.md R72), and the placing of a word where the next cycle fetches. -/

namespace Sys2Proof.Machine

/-- One `cycle` (R72): a halted machine does nothing (R184); otherwise fetch, pc advance, decode, execute, timer decay. -/
def step (s : State) : Host.Outcome State Fault Refusal :=
  match s.fault with
  | some _ => haltedCycle s
  | none =>
    match s.fetch with
    | .error a => .next (s.fetchFault a)
    | .ok w =>
      match decode w with
      | some i => finishCycle (exec i s.advancePc)
      | none => finishCycle (noOperation w s.advancePc)

/-- `s` with the table's word `w` where the next cycle fetches (R54, R70; log entry 11): at `pc`. What the fetch needs
besides: a machine that is not halted, and a `pc` with two bytes of memory (the program base where it has not). -/
def State.withFetchWord (s : State) (nbits w : Nat) : State :=
  let at' := if (rangeFault s.pc.toNat 2).isSome then resetPc else s.pc
  ((s.setPc at').setFault none).setMem
    (s.mem.writeBytes at'.toNat (bytesOfWord (BitVec.ofNat 16 (w % 2 ^ nbits))))

end Sys2Proof.Machine
end

