-- ==== Sys2Proof/Machine/HostPort.lean ====
section
/-! DEFINITION. The interfaces between the Machine and its host (45_host_interface.md R170 to R177): transactions that
happen wholly between two cycles, and the cycle itself. `rnd` (R176) is the free value `Config.rnd`. -/

namespace Sys2Proof.Machine

/-- The result of the load transaction (R171). -/
inductive LoadResult where
  | ok
  | sizeError
  deriving DecidableEq, Repr

/-- load(bytes) (R171): writes memory from 0x200 and `pc`, nothing else; too long a sequence changes nothing. -/
def State.load (s : State) (bytes : List Byte) : LoadResult × State :=
  if programFits bytes then (.ok, (s.setMem (s.mem.writeBytes progBase bytes)).setPc resetPc)
  else (.sizeError, s)

/-- The key write (R173). -/
def State.writeKeys (s : State) (keys : Vector Bool 16) : State := s.setKeys keys

/-- The reset transaction (R200): every piece of the spec's state at its reset value; the machine's GLYPH_ROM and the
count of draws are no such state and stay (log entry 13). -/
def State.hostReset (s : State) : State := (State.resetWith s.mem.glyphs).setDraws s.draws

/-- The framebuffer read (R174), cell (r, c) as element r * 64 + c (R30). -/
def State.readFramebuffer (s : State) : List Bool := s.fb.toList.flatMap Vector.toList

/-- The timer read (R175): delay, then sound. -/
def State.readTimers (s : State) : Byte × Byte := (s.dt, s.st)

/-- The cause code of a fault (R180). -/
def FaultCause.code : FaultCause → Nat
  | .stackOverflow => 1
  | .stackUnderflow => 2
  | .memoryOutOfRange => 3
  | .keyIndexOutOfRange => 4

/-- The fault read (R177): none, or the cause code and info. -/
def State.readFault (s : State) : Option (Nat × Nat) := s.fault.map (fun f => (f.cause.code, f.info))

/-- What the host can do to the Machine (R170); the reads have no effect (R174, R175, R177). -/
inductive HostAction where
  | reset
  | load (bytes : List Byte)
  | keys (k : Vector Bool 16)
  | cycle
  deriving DecidableEq, Repr

/-- cycle() as the host sees it (R172): it has no result. -/
def State.cycle (s : State) : State :=
  match step s with
  | .next t => t
  | .fault _ => s
  | .refused _ => s

/-- The state after one transaction. -/
def State.act (s : State) : HostAction → State
  | .reset => s.hostReset
  | .load bytes => (s.load bytes).2
  | .keys k => s.writeKeys k
  | .cycle => s.cycle

/-- The state after a sequence of transactions (R63: one total order). -/
def State.actAll (s : State) : List HostAction → State
  | [] => s
  | a :: as => (s.act a).actAll as

end Sys2Proof.Machine
end

