-- ==== Sys2Proof/Safety.lean ====
section
/-! DEFINITION. What claims about the machine are stated in: running and ended states, the machine's invariant, what a
transition leaves unchanged, the fault a cycle is due by the table of 60_exceptions.md R180, and the sprite cells of
43_display.md R150. -/

namespace Sys2Proof.Machine

/-- Not halted (R184). -/
abbrev State.Running (s : State) : Prop := s.fault = none

/-- The word the next cycle fetches, its first byte the high one (R54, R70), where both bytes exist. -/
def State.wordAtPc (s : State) : Word :=
  wordOfBytes (s.mem.read s.pc.toNat) (s.mem.read (s.pc.toNat + 1))

/-- Both bytes of the next instruction exist (R70). -/
abbrev State.Fetchable (s : State) : Prop := s.pc.toNat ≤ 0xFFE

/-- The next cycle executes the operation `i` (R72). -/
structure State.Executes (s : State) (i : Instr) : Prop where
  running : s.Running
  fetchable : s.Fetchable
  decodes : decode s.wordAtPc = some i

/-- A run has ended normally (R209, D27): not halted, at a Jump to its own address. -/
structure State.EndedNormally (s : State) : Prop where
  running : s.Running
  fetchable : s.Fetchable
  jumps_to_self : s.wordAtPc.toNat = 0x1000 + s.pc.toNat

/-! ### The invariant -/

/-- The info values R180 gives each cause. -/
def FaultRecord.InfoFits (f : FaultRecord) : Prop :=
  match f.cause with
  | .stackOverflow | .stackUnderflow => f.info = 0
  | .memoryOutOfRange => 0x1000 ≤ f.info ∧ f.info ≤ 0xFFFF
  | .keyIndexOutOfRange => 16 ≤ f.info ∧ f.info ≤ 255

/-- What holds of every state of every run: memory in canonical form; `pc` at most 0x10FE (R23); every stack slot at most
0x1000, a Call's own address plus 2 (R26, R103); a latched fault with an info value of R180. -/
structure State.Inv (s : State) : Prop where
  mem_wf : s.mem.wf
  pc_le : s.pc.toNat ≤ 0x10FE
  stack_le : ∀ k : Fin 16, (s.stack[k]).toNat ≤ 0x1000
  fault_fits : ∀ f, s.fault = some f → f.InfoFits

/-! ### What a transition leaves unchanged -/

/-- The pieces of the state, each register, stack slot, memory byte and pixel on its own. -/
inductive Piece where
  | reg (r : RegIdx)
  | i
  | pc
  | sp
  | slot (k : Fin 16)
  | dt
  | st
  | mem (a : Nat)
  | glyphs
  | pixel (r : Fin 32) (c : Fin 64)
  | key (k : Fin 16)
  | fault
  | draws
  deriving DecidableEq, Repr

/-- `t` holds what `s` holds at one piece; a memory byte is compared as it reads. -/
def SameAt (s t : State) : Piece → Prop
  | .reg r => t.v[r] = s.v[r]
  | .i => t.i = s.i
  | .pc => t.pc = s.pc
  | .sp => t.sp = s.sp
  | .slot k => t.stack[k] = s.stack[k]
  | .dt => t.dt = s.dt
  | .st => t.st = s.st
  | .mem a => t.mem.read a = s.mem.read a
  | .glyphs => t.mem.glyphs = s.mem.glyphs
  | .pixel r c => Framebuffer.pixel t.fb r c = Framebuffer.pixel s.fb r c
  | .key k => t.keys[k] = s.keys[k]
  | .fault => t.fault = s.fault
  | .draws => t.draws = s.draws

/-- Everything but the pieces of `P` is unchanged from `s` to `t`. -/
def ChangesOnly (P : Piece → Prop) (s t : State) : Prop := ∀ p, ¬ P p → SameAt s t p

/-- A result and a flag written together (R37): apart when x is not 15; when x is 15 the one VF_ORDER lets survive. -/
def WritesBoth (t : State) (x : RegIdx) (res flag : Nat) : Prop :=
  if x = 15 then (t.v[15]).toNat = (match Config.vfOrder with | .flagLast => flag | .resultLast => res)
  else (t.v[x]).toNat = res ∧ (t.v[15]).toNat = flag

/-! ### Faults -/

/-- The lowest address above 0xFFF of an access of `n` bytes at `a`, where it has one (R58). -/
def outOfRange (a n : Nat) : Option FaultRecord :=
  if n ≠ 0 ∧ 0x1000 < a + n then some ⟨.memoryOutOfRange, max a 0x1000⟩ else none

/-- The fault that an instruction is due in a state whose `pc` is already advanced (R180): its own condition, or none. -/
def faultOf (i : Instr) (s : State) : Option FaultRecord :=
  match i with
  | .call _ => if s.sp.val = 16 then some ⟨.stackOverflow, 0⟩ else none
  | .ret => if s.sp.val = 0 then some ⟨.stackUnderflow, 0⟩ else none
  | .skp x | .sknp x => if 15 < (s.v[x]).toNat then some ⟨.keyIndexOutOfRange, (s.v[x]).toNat⟩ else none
  | .ldB _ => outOfRange s.i.toNat 3
  | .stRegs x | .ldRegs x => outOfRange s.i.toNat (x.val + 1)
  | .drw _ _ n => outOfRange s.i.toNat n.val
  | _ => none

/-- The fault a cycle is due (R180, R188): fetch first, then the instruction's one condition. -/
def State.faultDue (s : State) : Option FaultRecord :=
  match outOfRange s.pc.toNat 2 with
  | some f => some f
  | none => (decode s.wordAtPc).bind (fun i => faultOf i s)

/-! ### Sprites -/

/-- Whether a draw of `n` rows at (`V[x]`, `V[y]`) has a sprite bit of 1 at a cell of the screen (R150). -/
def State.spriteBit (s : State) (x y : RegIdx) (n : Nat) (r : Fin 32) (c : Fin 64) : Bool :=
  let y0 := (s.v[y]).toNat % 32
  let x0 := (s.v[x]).toNat % 64
  decide (y0 ≤ r.val ∧ r.val < y0 + n ∧ x0 ≤ c.val ∧ c.val < x0 + 8) &&
    (s.mem.read (s.i.toNat + (r.val - y0))).getLsbD (7 - (c.val - x0))

end Sys2Proof.Machine
end

