-- ==== Sys2Proof/Certificates/Slice0/Obligations.lean ====
section
/-! DEFINITION. The statements about the machine. Every statement about `exec` takes a state whose `pc` is already
advanced (30_encoding.md R71); statements about `step` are about whole cycles (R72). -/

open Sys2Proof Sys2Proof.Machine

/-! ## Encoding -/

/-- R82, R83: decoding the canonical word of an instruction gives it back, with every operand. -/
def Obligations.DecodeEncodeRoundTrip : Prop :=
  ∀ i : Instr, i.wellFormed = true → decode (encode i) = some i

/-- R76, R80, R83: a word that decodes is the canonical word of its instruction exactly when its ignored bits are 0, and
the canonical word decodes to the same instruction. -/
def Obligations.CanonicalWordsEncode : Prop :=
  ∀ (w : Word) (i : Instr), decode w = some i →
    decode (encode i) = some i ∧ canonicalWord (encode i) = true ∧ (encode i = w ↔ canonicalWord w = true)

/-- R81: the no-op words are exactly the ones R81 lists, and a no-op cycle advances `pc` by 2, decays the timers and changes
nothing else. -/
def Obligations.NoOpWordsOnlyAdvance : Prop :=
  (∀ w : Word, decode w = none ↔
    (w.toNat / 0x1000 = 0x0 ∧ w.toNat % 0x100 ∉ [0xE0, 0xEE]) ∨
    (w.toNat / 0x1000 = 0x8 ∧ w.toNat % 0x10 ∈ [0x8, 0x9, 0xA, 0xB, 0xC, 0xD, 0xF]) ∨
    (w.toNat / 0x1000 = 0xE ∧ w.toNat % 0x100 ∉ [0x9E, 0xA1]) ∨
    (w.toNat / 0x1000 = 0xF ∧
      w.toNat % 0x100 ∉ [0x07, 0x0A, 0x15, 0x18, 0x1E, 0x29, 0x33, 0x55, 0x65])) ∧
  ∀ s : State, s.Running → s.Fetchable → decode s.wordAtPc = none →
    ∃ t, step s = .next t ∧ t.pc = s.pc + 2 ∧ t.dt.toNat = s.dt.toNat - 1 ∧ t.st.toNat = s.st.toNat - 1 ∧
      ChangesOnly (fun p => p = .pc ∨ p = .dt ∨ p = .st) s t

/-- R82: the family decoder and the opcode map are the same function: a word selects a row exactly when it decodes to that
row's operation with the row's operands, and a word that selects no row decodes to none. -/
def Obligations.DecoderFollowsOpcodeMap : Prop :=
  ∀ w : Word,
    (∀ r ∈ opcodeTable, r.selects w = true → decode w = some (r.build w) ∧ (r.build w).mnemonic = r.mnemonic) ∧
    (∀ i, decode w = some i → ∃ r ∈ opcodeTable, r.selects w = true ∧ r.build w = i)

/-- R82: no opcode matches two rows. -/
def Obligations.OpcodeRowsDisjoint : Prop :=
  opcodeTable.length = 34 ∧ ∀ w : Word, (opcodeTable.filter (fun r => r.selects w)).length ≤ 1

/-- R74, R82: at least one word of each of the 16 families 0 to F (R9), written out from the opcode map, decodes to the
instruction it stands for: 20 words in all; and 0x8128 is a no-op word (R77). -/
def Obligations.FamilyWordsDecode : Prop :=
  decode 0x00E0 = some .cls ∧ decode 0x0AE0 = some .cls ∧ decode 0x00EE = some .ret ∧
  decode 0x1234 = some (.jp 0x234) ∧ decode 0x2300 = some (.call 0x300) ∧ decode 0xBFFF = some (.jpV0 0xFFF) ∧
  decode 0x332A = some (.seImm 3 0x2A) ∧ decode 0x4B15 = some (.sneImm 11 0x15) ∧
  decode 0x6A2F = some (.ldImm 10 0x2F) ∧ decode 0x71FF = some (.addImm 1 0xFF) ∧
  decode 0x9120 = some (.sneReg 1 2) ∧ decode 0x512F = some (.seReg 1 2) ∧ decode 0xE4A1 = some (.sknp 4) ∧
  decode 0x8F17 = some (.subnReg 15 1) ∧ decode 0x81F6 = some (.shr 1) ∧ decode 0xC30F = some (.rnd 3 0x0F) ∧
  decode 0xA2F0 = some (.ldI 0x2F0) ∧ decode 0xF355 = some (.stRegs 3) ∧ decode 0xD129 = some (.drw 1 2 9) ∧
  decode 0xF50A = some (.ldKey 5) ∧ decode 0x8128 = none

/-! ## The cycle -/

/-- R72: when the word at `pc` decodes to an instruction, the cycle is the pc advance, the instruction, and the timer decay
unless the instruction faulted. -/
def Obligations.StepRunsDecoded : Prop :=
  ∀ (s : State) (i : Instr), s.Running → s.Fetchable → decode s.wordAtPc = some i → i.wellFormed = true →
    step s = (match exec i (s.setPc (s.pc + 2)) with
      | .next t =>
        if t.fault = none then .next ((t.setDt (decayTimer t.dt)).setSt (decayTimer t.st)) else .next t
      | .fault r => .fault r
      | .refused r => .refused r)

/-- R70: fetch reads the two bytes at `pc`, high byte first, at any parity; where one of them does not exist the cycle
raises MemoryOutOfRange with the lowest missing address. -/
def Obligations.FetchReadsTwoBytes : Prop :=
  ∀ s : State,
    (s.pc.toNat ≤ 0xFFE → ∃ w, s.fetch = .ok w ∧
      w.toNat = (s.mem.read s.pc.toNat).toNat * 256 + (s.mem.read (s.pc.toNat + 1)).toNat) ∧
    (s.pc.toNat = 0xFFF → s.fetch = .error 0x1000 ∧
      (s.Running → step s = .next (s.setFault (some ⟨.memoryOutOfRange, 0x1000⟩)))) ∧
    (0x1000 ≤ s.pc.toNat → s.fetch = .error s.pc.toNat ∧
      (s.Running → step s = .next (s.setFault (some ⟨.memoryOutOfRange, s.pc.toNat⟩))))

/-- R184: while FAULT is not none a cycle changes nothing; load and the key write leave FAULT; only reset clears it. -/
def Obligations.HaltedUntilReset : Prop :=
  ∀ (s : State) (f : FaultRecord), s.fault = some f →
    step s = .next s ∧ (∀ bytes, (s.load bytes).2.fault = some f) ∧ (∀ k, (s.writeKeys k).fault = some f) ∧
    s.hostReset.fault = none

/-- R183: a cycle that raises a fault changes no state except FAULT, which takes the record of R180: `pc` is the faulting
instruction's own address, and the timers do not decay. -/
def Obligations.FaultChangesOnlyTheLatch : Prop :=
  ∀ s t : State, s.Running → step s = .next t → t.fault ≠ none → t = s.setFault s.faultDue

/-- R180, R188: a cycle raises exactly the fault the table of R180 gives, fetch first, and no other. -/
def Obligations.FaultsExactlyWhenDue : Prop :=
  (∀ s : State, s.Running → ∃ t, step s = .next t ∧ t.fault = s.faultDue) ∧
  FaultCause.stackOverflow.code = 1 ∧ FaultCause.stackUnderflow.code = 2 ∧
  FaultCause.memoryOutOfRange.code = 3 ∧ FaultCause.keyIndexOutOfRange.code = 4

/-- R184, R186: a cycle answers a next state in every state: no word and no operand stops the machine otherwise. -/
def Obligations.EveryCycleAnswers : Prop :=
  ∀ s : State, ∃ t, step s = .next t

/-- R164, R183: at the end of every cycle that does not fault each timer is one less than the instruction left it, never
below 0; in a cycle that faults neither changes. -/
def Obligations.TimersDecayOncePerCycle : Prop :=
  ∀ s t : State, s.Running → step s = .next t →
    (t.fault = none →
      (∀ x, s.Executes (.ldDt x) → t.dt.toNat = (s.v[x]).toNat - 1) ∧
      ((¬ ∃ x, s.Executes (.ldDt x)) → t.dt.toNat = s.dt.toNat - 1) ∧
      (∀ x, s.Executes (.ldSt x) → t.st.toNat = (s.v[x]).toNat - 1) ∧
      ((¬ ∃ x, s.Executes (.ldSt x)) → t.st.toNat = s.st.toNat - 1)) ∧
    (t.fault ≠ none → t.dt = s.dt ∧ t.st = s.st)

/-! ## What a cycle may write -/

/-- R23: unless the instruction is one of the writers R23 lists, a cycle without a fault moves `pc` by 2. -/
def Obligations.PcMovesByTwo : Prop :=
  ∀ s t : State, s.Running → step s = .next t → t.fault = none → t.pc ≠ s.pc + 2 →
    s.Executes .ret ∨ (∃ nnn, s.Executes (.jp nnn) ∨ s.Executes (.call nnn) ∨ s.Executes (.jpV0 nnn)) ∨
    (∃ x kk, s.Executes (.seImm x kk) ∨ s.Executes (.sneImm x kk)) ∨
    (∃ x y, s.Executes (.seReg x y) ∨ s.Executes (.sneReg x y)) ∨
    (∃ x, s.Executes (.skp x) ∨ s.Executes (.sknp x) ∨ s.Executes (.ldKey x))

/-- R21: VF changes only under the six side-effect writers, or as the named destination of another instruction. -/
def Obligations.FlagRegisterWriters : Prop :=
  ∀ s t : State, step s = .next t → t.v[15] ≠ s.v[15] →
    (∃ x y n, s.Executes (.addReg x y) ∨ s.Executes (.subReg x y) ∨ s.Executes (.subnReg x y) ∨
      s.Executes (.shr x) ∨ s.Executes (.shl x) ∨ s.Executes (.drw x y n)) ∨
    (∃ y kk, s.Executes (.ldImm 15 kk) ∨ s.Executes (.addImm 15 kk) ∨ s.Executes (.rnd 15 kk) ∨
      s.Executes (.ldReg 15 y) ∨ s.Executes (.orReg 15 y) ∨ s.Executes (.andReg 15 y) ∨ s.Executes (.xorReg 15 y)) ∨
    s.Executes (.ldRegs 15) ∨ s.Executes (.ldVxDt 15) ∨ s.Executes (.ldKey 15)

/-- R24: `I` is written by Set-index, Add-to-index and Font-character address alone. -/
def Obligations.IndexWriters : Prop :=
  ∀ s t : State, step s = .next t → t.i ≠ s.i →
    (∃ nnn, s.Executes (.ldI nnn)) ∨ ∃ x, s.Executes (.addI x) ∨ s.Executes (.ldF x)

/-- R26, R27: the stack is written by Call alone, `SP` by Call and Return alone. -/
def Obligations.StackWriters : Prop :=
  ∀ s t : State, step s = .next t →
    (t.stack ≠ s.stack → ∃ nnn, s.Executes (.call nnn)) ∧
    (t.sp ≠ s.sp → (∃ nnn, s.Executes (.call nnn)) ∨ s.Executes .ret)

/-- R25, R53: memory is written by BCD store and Register dump alone. -/
def Obligations.MemoryWriters : Prop :=
  ∀ (s t : State) (a : Nat), step s = .next t → t.mem.read a ≠ s.mem.read a →
    ∃ x, (s.Executes (.ldB x) ∧ s.i.toNat ≤ a ∧ a ≤ s.i.toNat + 2) ∨
      (s.Executes (.stRegs x) ∧ s.i.toNat ≤ a ∧ a ≤ s.i.toNat + x.val)

/-- R30: the framebuffer is mutated by Clear-screen and Sprite draw alone. -/
def Obligations.FramebufferWriters : Prop :=
  ∀ s t : State, step s = .next t → t.fb ≠ s.fb → s.Executes .cls ∨ ∃ x y n, s.Executes (.drw x y n)

/-- R31, R173: a cycle never writes the key state; nor does it change GLYPH_ROM. -/
def Obligations.KeysNeverWritten : Prop :=
  ∀ s t : State, step s = .next t → t.keys = s.keys ∧ t.mem.glyphs = s.mem.glyphs

/-- R31: the key state reaches a cycle only through the two key skips and Block-on-key: in every other cycle a change of
the keys changes nothing else. -/
def Obligations.KeysReadByKeyInstructionsOnly : Prop :=
  ∀ (s t : State) (k : Vector Bool 16), step s = .next t →
    (¬ ∃ x, s.Executes (.skp x) ∨ s.Executes (.sknp x) ∨ s.Executes (.ldKey x)) →
    step (s.setKeys k) = .next (t.setKeys k)

/-- R28, R29: the sound timer has no effect inside the machine: two states that differ in ST alone step to states that
differ in ST at most. -/
def Obligations.SoundTimerHasNoEffect : Prop :=
  ∀ (s t : State) (b : Byte), step s = .next t →
    ∃ t', step (s.setSt b) = .next t' ∧ t'.setSt 0 = t.setSt 0

/-! ## Invariants -/

/-- The invariant holds at reset, whatever GLYPH_ROM is, and no fault is latched. Two clauses of the invariant rest on the
log: the bound of the stack slots on their zeros at reset (log entry 6, the spec's decision D12), the canonical form of
memory on the model's own form (log entry 12). -/
def Obligations.ResetMeetsInvariant : Prop :=
  ∀ glyphs : Vector Byte 80, (State.resetWith glyphs).Inv ∧ (State.resetWith glyphs).fault = none

/-- R23, R26, R180: every cycle keeps the invariant: memory in canonical form (the model's own form, log entry 12), `pc`
at most 0x10FE, stack slots at most 0x1000, fault information in its range. -/
def Obligations.StepKeepsInvariant : Prop :=
  ∀ s t : State, s.Inv → step s = .next t → t.Inv

/-- R23, R26, R180: the invariant (memory in canonical form, the model's own form of log entry 12; `pc` at most 0x10FE;
stack slots at most 0x1000; fault information in its range) holds after every sequence of host transactions (resets, loads,
key writes, cycles) from a state that meets it, so along every run a host can drive; a reset meets the bound of the stack
slots by their zeros (log entry 6). -/
def Obligations.HostRunsKeepInvariant : Prop :=
  ∀ (s : State) (as : List HostAction), s.Inv → (s.actAll as).Inv

/-! ## Memory -/

/-- R58: the range check reports the lowest address above 0xFFF that the access would touch, and none exactly when it
touches none. -/
def Obligations.RangeCheckReportsLowest : Prop :=
  ∀ a n : Nat,
    (rangeFault a n = none ↔ ∀ k, k < n → a + k ≤ 0xFFF) ∧
    ∀ b, rangeFault a n = some b →
      (∃ k, k < n ∧ b = a + k) ∧ 0xFFF < b ∧ ∀ k, k < n → 0xFFF < a + k → b ≤ a + k

/-- Log entry 12: memories in canonical form that read alike are the same data. -/
def Obligations.MemoryFormIsCanonical : Prop :=
  ∀ m m' : Memory, m.wf → m'.wf → m.glyphs = m'.glyphs → (∀ a, m.read a = m'.read a) → m = m'

/-- R54, R61: bytes stored by a Register dump are what the next fetch reads there, `V[k]` as the high byte. -/
def Obligations.FetchSeesStoredBytes : Prop :=
  ∀ (s : State) (x : RegIdx) (k : Nat) (hk : k + 1 ≤ x.val), s.i.toNat + x.val ≤ 0xFFF →
    ∃ t, exec (.stRegs x) s = .next t ∧
      ∀ u : State, u.mem = t.mem → u.pc.toNat = s.i.toNat + k →
        u.fetch = .ok (s.v[k]'(by omega) ++ s.v[k + 1]'(by omega))

/-! ## Reset and host -/

/-- R201: the first instruction executed after reset and after every successful load is the one at 0x200. -/
def Obligations.EntryPointIsFixed : Prop :=
  (∀ glyphs, (State.resetWith glyphs).pc.toNat = 0x200) ∧ State.reset.pc.toNat = 0x200 ∧
  ∀ s : State, s.hostReset.pc.toNat = 0x200 ∧ ∀ bytes, (s.load bytes).1 = .ok → (s.load bytes).2.pc.toNat = 0x200

/-- What reset leaves (10_state.md section 9), at construction with any GLYPH_ROM and after the host's reset from any state:
glyph d at 5d, `pc`, SP, FAULT, and zeros elsewhere (the zeros are the spec's decision D12 and stand in log entry 6; that
reset also releases the keys is log entry 13). -/
def Obligations.ResetLeavesTable : Prop :=
  ∀ (glyphs : Vector Byte 80) (s : State),
    (s = State.resetWith glyphs ∨ ∃ s₀ : State, s₀.mem.glyphs = glyphs ∧ s = s₀.hostReset) →
    (∀ (d k : Nat) (_ : d < 16) (_ : k < 5), s.mem.read (5 * d + k) = glyphs[5 * d + k]) ∧
    (∀ a, 0x50 ≤ a → s.mem.read a = 0) ∧ s.pc = 0x200 ∧ s.sp = 0 ∧ s.fault = none ∧ s.i = 0 ∧ s.dt = 0 ∧ s.st = 0 ∧
    (∀ r : RegIdx, s.v[r] = 0) ∧ (∀ k : Fin 16, s.stack[k] = 0) ∧ (∀ k : Fin 16, s.keys[k] = false) ∧
    ∀ r c, Framebuffer.pixel s.fb r c = false

/-- R171: load writes the bytes from 0x200 and sets `pc`, nothing else; a sequence longer than 3583 bytes is rejected and
changes nothing. -/
def Obligations.LoadWritesProgram : Prop :=
  ∀ (s : State) (bytes : List Byte),
    (3583 < bytes.length → s.load bytes = (.sizeError, s)) ∧
    (bytes.length ≤ 3583 → ∃ t, s.load bytes = (.ok, t) ∧ t.pc.toNat = 0x200 ∧
      (∀ (k : Nat) (hk : k < bytes.length), t.mem.read (0x200 + k) = bytes[k]) ∧
      ChangesOnly (fun p => p = .pc ∨ ∃ k, k < bytes.length ∧ p = .mem (0x200 + k)) s t)

/-- R30, R174, R175, R177: what the host reads is the state as it stands between cycles: cell (r, c) of the framebuffer as
element r * 64 + c, the two timers, and none or the cause code and info of the latched fault. -/
def Obligations.HostReadsState : Prop :=
  ∀ s : State,
    s.readFramebuffer.length = 2048 ∧
    (∀ (r : Fin 32) (c : Fin 64), s.readFramebuffer[r.val * 64 + c.val]? = some (Framebuffer.pixel s.fb r c)) ∧
    s.readTimers = (s.dt, s.st) ∧ (s.readFault = none ↔ s.Running) ∧
    ∀ f, s.fault = some f → s.readFault = some (f.cause.code, f.info)

/-- R209: from a state in which a run has ended normally a further cycle changes nothing but the timers, which decay, and
the run has ended normally still. -/
def Obligations.EndedRunStays : Prop :=
  ∀ s : State, s.EndedNormally →
    ∃ t, step s = .next t ∧ t.dt.toNat = s.dt.toNat - 1 ∧ t.st.toNat = s.st.toNat - 1 ∧
      ChangesOnly (fun p => p = .dt ∨ p = .st) s t ∧ t.EndedNormally

/-! ## Control flow -/

/-- R100: Clear-screen resets every framebuffer cell to 0 and changes nothing else. -/
def Obligations.ClsClearsScreen : Prop :=
  ∀ s : State, ∃ t, exec .cls s = .next t ∧ (∀ r c, Framebuffer.pixel t.fb r c = false) ∧
    ChangesOnly (fun p => ∃ r c, p = .pixel r c) s t

/-- R101: Return decrements SP and loads `pc` from the popped slot, which keeps its value; on an empty stack it faults. -/
def Obligations.RetPopsOrUnderflows : Prop :=
  ∀ s : State,
    (∀ h : 0 < s.sp.val, ∃ t, exec .ret s = .next t ∧ t.sp.val = s.sp.val - 1 ∧
      t.pc = s.stack[s.sp.val - 1]'(by omega) ∧ ChangesOnly (fun p => p = .pc ∨ p = .sp) s t) ∧
    (s.sp.val = 0 → s.Running → ∃ t, exec .ret s = .next t ∧ t.fault = some ⟨.stackUnderflow, 0⟩ ∧
      t.pc = s.pc - 2 ∧ ChangesOnly (fun p => p = .pc ∨ p = .fault) s t)

/-- R102, R104: Jump sets `pc` to NNN, Jump-with-offset to NNN + `V[0]`, not reduced to 12 bits. -/
def Obligations.JumpsSetPc : Prop :=
  ∀ (s : State) (nnn : Addr12),
    (∃ t, exec (.jp nnn) s = .next t ∧ t.pc.toNat = nnn.toNat ∧ ChangesOnly (fun p => p = .pc) s t) ∧
    (∃ t, exec (.jpV0 nnn) s = .next t ∧ t.pc.toNat = nnn.toNat + (s.v[0]).toNat ∧
      ChangesOnly (fun p => p = .pc) s t)

/-- R103: Call pushes the advanced `pc`, increments SP and jumps; with a full stack it faults and pushes nothing. -/
def Obligations.CallPushesOrOverflows : Prop :=
  ∀ (s : State) (nnn : Addr12),
    (∀ h : s.sp.val < 16, ∃ t, exec (.call nnn) s = .next t ∧ t.stack[s.sp.val] = s.pc ∧
      t.sp.val = s.sp.val + 1 ∧ t.pc.toNat = nnn.toNat ∧
      ChangesOnly (fun p => p = .pc ∨ p = .sp ∨ p = .slot ⟨s.sp.val, h⟩) s t) ∧
    (s.sp.val = 16 → s.Running → ∃ t, exec (.call nnn) s = .next t ∧ t.fault = some ⟨.stackOverflow, 0⟩ ∧
      t.pc = s.pc - 2 ∧ ChangesOnly (fun p => p = .pc ∨ p = .fault) s t)

/-- R101, R103: a Return with the stack a Call left resumes after that Call. -/
def Obligations.ReturnResumesAfterCall : Prop :=
  ∀ (s : State) (nnn : Addr12), s.sp.val < 16 →
    ∃ t, exec (.call nnn) s = .next t ∧
      ∀ u : State, u.sp = t.sp → u.stack = t.stack → ∃ w, exec .ret u = .next w ∧ w.pc = s.pc ∧ w.sp = s.sp

/-- R105 to R108: each skip moves `pc` by 2 more when its condition holds, and changes nothing otherwise. -/
def Obligations.CompareSkips : Prop :=
  ∀ (s : State) (x y : RegIdx) (kk : Byte),
    (∃ t, exec (.seImm x kk) s = .next t ∧ t.pc = (if s.v[x] = kk then s.pc + 2 else s.pc) ∧
      ChangesOnly (fun p => p = .pc) s t) ∧
    (∃ t, exec (.sneImm x kk) s = .next t ∧ t.pc = (if s.v[x] = kk then s.pc else s.pc + 2) ∧
      ChangesOnly (fun p => p = .pc) s t) ∧
    (∃ t, exec (.seReg x y) s = .next t ∧ t.pc = (if s.v[x] = s.v[y] then s.pc + 2 else s.pc) ∧
      ChangesOnly (fun p => p = .pc) s t) ∧
    (∃ t, exec (.sneReg x y) s = .next t ∧ t.pc = (if s.v[x] = s.v[y] then s.pc else s.pc + 2) ∧
      ChangesOnly (fun p => p = .pc) s t)

/-- R109, R110: the key skips test the level of key `V[x]`; an index above 15 faults with the index as info. -/
def Obligations.KeySkipsTestLevel : Prop :=
  ∀ (s : State) (x : RegIdx),
    (∀ h : (s.v[x]).toNat < 16,
      (∃ t, exec (.skp x) s = .next t ∧ t.pc = (if s.keys[(s.v[x]).toNat] = true then s.pc + 2 else s.pc) ∧
        ChangesOnly (fun p => p = .pc) s t) ∧
      (∃ t, exec (.sknp x) s = .next t ∧ t.pc = (if s.keys[(s.v[x]).toNat] = true then s.pc else s.pc + 2) ∧
        ChangesOnly (fun p => p = .pc) s t)) ∧
    (15 < (s.v[x]).toNat → s.Running → ∀ i, i = .skp x ∨ i = .sknp x →
      ∃ t, exec i s = .next t ∧ t.fault = some ⟨.keyIndexOutOfRange, (s.v[x]).toNat⟩ ∧ t.pc = s.pc - 2 ∧
        ChangesOnly (fun p => p = .pc ∨ p = .fault) s t)

/-! ## Registers and arithmetic -/

/-- R120, R122: the loads of a register write that register alone. -/
def Obligations.RegisterLoads : Prop :=
  ∀ (s : State) (x y : RegIdx) (kk : Byte),
    (∃ t, exec (.ldImm x kk) s = .next t ∧ t.v[x] = kk ∧ ChangesOnly (fun p => p = .reg x) s t) ∧
    (∃ t, exec (.ldReg x y) s = .next t ∧ t.v[x] = s.v[y] ∧ ChangesOnly (fun p => p = .reg x) s t)

/-- R121: Add-immediate is modulo 256 and leaves VF unless x is 15. -/
def Obligations.AddImmediateWraps : Prop :=
  ∀ (s : State) (x : RegIdx) (kk : Byte), ∃ t, exec (.addImm x kk) s = .next t ∧
    (t.v[x]).toNat = ((s.v[x]).toNat + kk.toNat) % 256 ∧ ChangesOnly (fun p => p = .reg x) s t

/-- R123 to R125: OR, AND, XOR bit by bit; VF is neither cleared nor set unless x is 15. -/
def Obligations.LogicIsBitwise : Prop :=
  ∀ (s : State) (x y : RegIdx),
    (∃ t, exec (.orReg x y) s = .next t ∧
      (∀ k, (t.v[x]).getLsbD k = ((s.v[x]).getLsbD k || (s.v[y]).getLsbD k)) ∧
      ChangesOnly (fun p => p = .reg x) s t) ∧
    (∃ t, exec (.andReg x y) s = .next t ∧
      (∀ k, (t.v[x]).getLsbD k = ((s.v[x]).getLsbD k && (s.v[y]).getLsbD k)) ∧
      ChangesOnly (fun p => p = .reg x) s t) ∧
    (∃ t, exec (.xorReg x y) s = .next t ∧
      (∀ k, (t.v[x]).getLsbD k = ((s.v[x]).getLsbD k ^^ (s.v[y]).getLsbD k)) ∧
      ChangesOnly (fun p => p = .reg x) s t)

/-- R126: Add-with-carry; x = 15 as VF_ORDER decides (R37). -/
def Obligations.AddWithCarry : Prop :=
  ∀ (s : State) (x y : RegIdx), ∃ t, exec (.addReg x y) s = .next t ∧
    WritesBoth t x (((s.v[x]).toNat + (s.v[y]).toNat) % 256)
      (if 255 < (s.v[x]).toNat + (s.v[y]).toNat then 1 else 0) ∧
    ChangesOnly (fun p => p = .reg x ∨ p = .reg 15) s t

/-- R127: Subtract, the flag a strict comparison; x = 15 as VF_ORDER decides (R37). -/
def Obligations.SubtractFlagsStrictly : Prop :=
  ∀ (s : State) (x y : RegIdx), ∃ t, exec (.subReg x y) s = .next t ∧
    WritesBoth t x ((((s.v[x]).toNat : Int) - (s.v[y]).toNat) % 256).toNat
      (if (s.v[y]).toNat < (s.v[x]).toNat then 1 else 0) ∧
    ChangesOnly (fun p => p = .reg x ∨ p = .reg 15) s t

/-- R128: Reverse-subtract, mirrored, into `V[x]`; x = 15 as VF_ORDER decides (R37). -/
def Obligations.ReverseSubtract : Prop :=
  ∀ (s : State) (x y : RegIdx), ∃ t, exec (.subnReg x y) s = .next t ∧
    WritesBoth t x ((((s.v[y]).toNat : Int) - (s.v[x]).toNat) % 256).toNat
      (if (s.v[x]).toNat < (s.v[y]).toNat then 1 else 0) ∧
    ChangesOnly (fun p => p = .reg x ∨ p = .reg 15) s t

/-- R129, R130: the shifts are by 1, the flag the bit shifted out; x = 15 as VF_ORDER decides (R37). -/
def Obligations.ShiftsByOne : Prop :=
  ∀ (s : State) (x : RegIdx),
    (∃ t, exec (.shr x) s = .next t ∧ WritesBoth t x ((s.v[x]).toNat / 2) ((s.v[x]).toNat % 2) ∧
      ChangesOnly (fun p => p = .reg x ∨ p = .reg 15) s t) ∧
    (∃ t, exec (.shl x) s = .next t ∧ WritesBoth t x ((s.v[x]).toNat * 2 % 256) ((s.v[x]).toNat / 128) ∧
      ChangesOnly (fun p => p = .reg x ∨ p = .reg 15) s t)

/-- R132: Random is the drawn byte ANDed with the mask, and each execution takes the next draw (log entry 4): whatever the
draw, the result has no bit that the mask has not and is at most the mask. -/
def Obligations.RandomIsMaskedDraw : Prop :=
  ∀ (s : State) (x : RegIdx) (kk : Byte), ∃ t, exec (.rnd x kk) s = .next t ∧
    t.v[x] = Config.rnd s.draws &&& kk ∧ t.draws = s.draws + 1 ∧
    (∀ k, kk.getLsbD k = false → (t.v[x]).getLsbD k = false) ∧ (t.v[x]).toNat ≤ kk.toNat ∧
    ChangesOnly (fun p => p = .reg x ∨ p = .draws) s t

/-! ## Memory and index -/

/-- R140: Set-index. -/
def Obligations.SetIndex : Prop :=
  ∀ (s : State) (nnn : Addr12), ∃ t, exec (.ldI nnn) s = .next t ∧ t.i.toNat = nnn.toNat ∧
    ChangesOnly (fun p => p = .i) s t

/-- R141: Add-to-index is modulo 2^16 and has no flag and no fault. -/
def Obligations.AddToIndexWraps : Prop :=
  ∀ (s : State) (x : RegIdx), ∃ t, exec (.addI x) s = .next t ∧
    t.i.toNat = (s.i.toNat + (s.v[x]).toNat) % 65536 ∧ ChangesOnly (fun p => p = .i) s t

/-- R142: Font-character address is 5 times the whole byte. -/
def Obligations.GlyphAddressIsFiveTimes : Prop :=
  ∀ (s : State) (x : RegIdx), ∃ t, exec (.ldF x) s = .next t ∧ t.i.toNat = 5 * (s.v[x]).toNat ∧
    ChangesOnly (fun p => p = .i) s t

/-- R143: BCD store writes the three digits at I, I+1, I+2, and faults with nothing written when I is above 0xFFD. -/
def Obligations.BcdStoresDigits : Prop :=
  ∀ (s : State) (x : RegIdx),
    (s.i.toNat ≤ 0xFFD → ∃ t, exec (.ldB x) s = .next t ∧
      (t.mem.read s.i.toNat).toNat = (s.v[x]).toNat / 100 ∧
      (t.mem.read (s.i.toNat + 1)).toNat = (s.v[x]).toNat / 10 % 10 ∧
      (t.mem.read (s.i.toNat + 2)).toNat = (s.v[x]).toNat % 10 ∧
      ChangesOnly (fun p => ∃ k, k ≤ 2 ∧ p = .mem (s.i.toNat + k)) s t) ∧
    (0xFFD < s.i.toNat → s.Running → ∃ t, exec (.ldB x) s = .next t ∧
      t.fault = some ⟨.memoryOutOfRange, max s.i.toNat 0x1000⟩ ∧ t.pc = s.pc - 2 ∧
      ChangesOnly (fun p => p = .pc ∨ p = .fault) s t)

/-- R144: Register dump copies `V[0]` to `V[x]` to memory from I, and faults with nothing written when I + x is above
0xFFF. -/
def Obligations.DumpCopiesRegisters : Prop :=
  ∀ (s : State) (x : RegIdx),
    (s.i.toNat + x.val ≤ 0xFFF → ∃ t, exec (.stRegs x) s = .next t ∧
      (∀ k : RegIdx, k.val ≤ x.val → t.mem.read (s.i.toNat + k.val) = s.v[k]) ∧
      ChangesOnly (fun p => ∃ k, k ≤ x.val ∧ p = .mem (s.i.toNat + k)) s t) ∧
    (0xFFF < s.i.toNat + x.val → s.Running → ∃ t, exec (.stRegs x) s = .next t ∧
      t.fault = some ⟨.memoryOutOfRange, max s.i.toNat 0x1000⟩ ∧ t.pc = s.pc - 2 ∧
      ChangesOnly (fun p => p = .pc ∨ p = .fault) s t)

/-- R145: Register load copies memory from I to `V[0]` to `V[x]`, and faults with no register written when I + x is above
0xFFF. -/
def Obligations.LoadCopiesMemory : Prop :=
  ∀ (s : State) (x : RegIdx),
    (s.i.toNat + x.val ≤ 0xFFF → ∃ t, exec (.ldRegs x) s = .next t ∧
      (∀ k : RegIdx, k.val ≤ x.val → t.v[k] = s.mem.read (s.i.toNat + k.val)) ∧
      ChangesOnly (fun p => ∃ k : RegIdx, k.val ≤ x.val ∧ p = .reg k) s t) ∧
    (0xFFF < s.i.toNat + x.val → s.Running → ∃ t, exec (.ldRegs x) s = .next t ∧
      t.fault = some ⟨.memoryOutOfRange, max s.i.toNat 0x1000⟩ ∧ t.pc = s.pc - 2 ∧
      ChangesOnly (fun p => p = .pc ∨ p = .fault) s t)

/-! ## Display -/

/-- R150, R151: the pixel-by-pixel draw is the XOR of the screen with the clipped sprite, all cells at once; VF is 1 exactly
when a set cell meets a sprite bit of 1; out of range it faults with nothing drawn. -/
def Obligations.DrawXorsClippedSprite : Prop :=
  ∀ (s : State) (x y : RegIdx) (n : Fin 16),
    (n.val = 0 ∨ s.i.toNat + n.val - 1 ≤ 0xFFF → ∃ t, exec (.drw x y n) s = .next t ∧
      (∀ r c, Framebuffer.pixel t.fb r c = (Framebuffer.pixel s.fb r c ^^ s.spriteBit x y n.val r c)) ∧
      ((∃ r c, Framebuffer.pixel s.fb r c = true ∧ s.spriteBit x y n.val r c = true) → t.v[15] = 1) ∧
      ((¬ ∃ r c, Framebuffer.pixel s.fb r c = true ∧ s.spriteBit x y n.val r c = true) → t.v[15] = 0) ∧
      ChangesOnly (fun p => p = .reg 15 ∨ ∃ r c, p = .pixel r c) s t) ∧
    (n.val ≠ 0 → 0xFFF < s.i.toNat + n.val - 1 → s.Running → ∃ t, exec (.drw x y n) s = .next t ∧
      t.fault = some ⟨.memoryOutOfRange, max s.i.toNat 0x1000⟩ ∧ t.pc = s.pc - 2 ∧
      ChangesOnly (fun p => p = .pc ∨ p = .fault) s t)

/-- R151: drawing the same sprite twice at the same place restores the screen; if the first draw hit nothing and lit
something, the second reports a collision. -/
def Obligations.DrawTwiceRestores : Prop :=
  ∀ (s : State) (x y : RegIdx) (n : Fin 16), x ≠ 15 → y ≠ 15 → (n.val = 0 ∨ s.i.toNat + n.val - 1 ≤ 0xFFF) →
    ∃ t, exec (.drw x y n) s = .next t ∧
      ∀ u : State, u.fb = t.fb → u.v = t.v → u.i = t.i → u.mem = t.mem →
        ∃ w, exec (.drw x y n) u = .next w ∧ w.fb = s.fb ∧
          (t.v[15] = 0 → t.fb ≠ s.fb → w.v[15] = 1)

/-! ## Timers and input -/

/-- R160, R162, and R161's effect: Get-delay reads DT before this cycle's decay, Set-delay and Set-sound write the timers,
and the decay of the same cycle acts on the value just written. -/
def Obligations.TimerAccess : Prop :=
  ∀ (s : State) (x : RegIdx),
    (∃ t, exec (.ldVxDt x) s = .next t ∧ t.v[x] = s.dt ∧ ChangesOnly (fun p => p = .reg x) s t) ∧
    (∃ t, exec (.ldDt x) s = .next t ∧ t.dt = s.v[x] ∧ ChangesOnly (fun p => p = .dt) s t) ∧
    (∃ t, exec (.ldSt x) s = .next t ∧ t.st = s.v[x] ∧ ChangesOnly (fun p => p = .st) s t) ∧
    (s.Executes (.ldVxDt x) → ∃ t, step s = .next t ∧ t.v[x] = s.dt ∧ t.dt.toNat = s.dt.toNat - 1) ∧
    (s.Executes (.ldSt x) → ∃ t, step s = .next t ∧ t.st.toNat = (s.v[x]).toNat - 1)

/-- R161 with R72, R164, R207: k cycles after a Set-delay of v, with no other Set-delay between and no fault, the delay timer
that the next cycle reads is v - k, and 0 from v cycles on (the spec marks this as derived from R72 and R164). -/
def Obligations.SetDelayCountsDown : Prop :=
  ∀ (s : State) (x : RegIdx) (k : Nat), s.Executes (.ldDt x) → 1 ≤ k → (State.cycle^[k] s).Running →
    (∀ j, 1 ≤ j → j < k → ¬ ∃ y, (State.cycle^[j] s).Executes (.ldDt y)) →
    (State.cycle^[k] s).dt.toNat = (s.v[x]).toNat - k

/-- R163: Block-on-key stores the least pressed key, or sets `pc` back by 2 and writes nothing else. -/
def Obligations.BlockOnKey : Prop :=
  ∀ (s : State) (x : RegIdx),
    (∀ k : Fin 16, s.keys[k] = true → (∀ j : Fin 16, j < k → s.keys[j] = false) →
      ∃ t, exec (.ldKey x) s = .next t ∧ (t.v[x]).toNat = k.val ∧ ChangesOnly (fun p => p = .reg x) s t) ∧
    ((∀ k : Fin 16, s.keys[k] = false) →
      ∃ t, exec (.ldKey x) s = .next t ∧ t.pc = s.pc - 2 ∧ ChangesOnly (fun p => p = .pc) s t)

/-- R163, R164: a cycle spent waiting for a key changes the timers alone, and the next cycle executes the same
instruction. -/
def Obligations.WaitingChangesOnlyTimers : Prop :=
  ∀ (s : State) (x : RegIdx), s.Executes (.ldKey x) → (∀ k : Fin 16, s.keys[k] = false) →
    ∃ t, step s = .next t ∧ t.dt.toNat = s.dt.toNat - 1 ∧ t.st.toNat = s.st.toNat - 1 ∧
      ChangesOnly (fun p => p = .dt ∨ p = .st) s t ∧ t.Executes (.ldKey x)
end

