-- ==== Sys2Proof/Laws/Draw.lean ====
section
/-! SUPPORT. What one plotted sprite bit does to the screen and the collision flag. -/

namespace Sys2Proof.Machine

theorem Framebuffer.pixel_setPixel (fb : Framebuffer) (r r' : Fin 32) (c c' : Fin 64) (p : Bool) :
    Framebuffer.pixel (Framebuffer.setPixel fb r c p) r' c' =
      if r = r' ∧ c = c' then p else Framebuffer.pixel fb r' c' := by
  unfold Framebuffer.pixel Framebuffer.setPixel
  by_cases hr : r = r'
  · subst hr
    by_cases hc : c = c'
    · subst hc; simp
    · have : c.val ≠ c'.val := fun e => hc (Fin.ext e)
      simp [hc, this]
  · have : r.val ≠ r'.val := fun e => hr (Fin.ext e)
    simp [hr, this]

/-- Two framebuffers that agree on every cell are the same. -/
theorem Framebuffer.ext_pixel {fb fb' : Framebuffer}
    (h : ∀ r c, Framebuffer.pixel fb r c = Framebuffer.pixel fb' r c) : fb = fb' := by
  refine Vector.ext fun r hr => Vector.ext fun c hc => ?_
  exact h ⟨r, hr⟩ ⟨c, hc⟩

/-- One sprite bit: a 1 on the screen toggles its cell, and nothing else changes. -/
theorem Canvas.pixel_plot (d : Canvas) (y x : Nat) (bit : Bool) (r : Fin 32) (c : Fin 64) :
    Framebuffer.pixel (d.plot y x bit).fb r c =
      (Framebuffer.pixel d.fb r c ^^ (decide (y = r.val ∧ x = c.val) && bit)) := by
  unfold Canvas.plot
  split
  · next h =>
    cases bit
    · simp
    · simp only [if_true, Framebuffer.pixel_setPixel, Fin.ext_iff]
      by_cases hh : y = r.val ∧ x = c.val
      · obtain ⟨rfl, rfl⟩ := hh; simp
      · simp [hh]
  · next h =>
    have : ¬ (y = r.val ∧ x = c.val) := by rintro ⟨rfl, rfl⟩; exact h ⟨r.isLt, c.isLt⟩
    simp [this]

/-- One sprite bit: the flag is raised exactly when a 1 lands on a set cell of the screen. -/
theorem Canvas.collided_plot (d : Canvas) (y x : Nat) (bit : Bool) :
    (d.plot y x bit).collided = true ↔
      d.collided = true ∨
        ∃ (r : Fin 32) (c : Fin 64), y = r.val ∧ x = c.val ∧ bit = true ∧ Framebuffer.pixel d.fb r c = true := by
  unfold Canvas.plot
  split
  · next h =>
    cases bit
    · simp
    · simp only [if_true, Bool.or_eq_true, true_and]
      constructor
      · rintro (hd | hd)
        · exact .inl hd
        · exact .inr ⟨⟨y, h.1⟩, ⟨x, h.2⟩, rfl, rfl, hd⟩
      · rintro (hd | ⟨r, c, rfl, rfl, hd⟩)
        · exact .inl hd
        · exact .inr hd
  · next h =>
    constructor
    · exact .inl
    · rintro (hd | ⟨r, c, rfl, rfl, -⟩)
      · exact hd
      · exact absurd ⟨r.isLt, c.isLt⟩ h

end Sys2Proof.Machine
end

