-- ==== Sys2Proof/Laws/State.lean ====
section
/-! SUPPORT. What each field reads after each field update, so that no proof unfolds a record update. -/

namespace Sys2Proof.Machine

section
variable (s : State) (a : Vector Byte 16)
@[simp] theorem State.setV_v : (s.setV a).v = a := rfl
@[simp] theorem State.setV_i : (s.setV a).i = s.i := rfl
@[simp] theorem State.setV_pc : (s.setV a).pc = s.pc := rfl
@[simp] theorem State.setV_sp : (s.setV a).sp = s.sp := rfl
@[simp] theorem State.setV_stack : (s.setV a).stack = s.stack := rfl
@[simp] theorem State.setV_dt : (s.setV a).dt = s.dt := rfl
@[simp] theorem State.setV_st : (s.setV a).st = s.st := rfl
@[simp] theorem State.setV_mem : (s.setV a).mem = s.mem := rfl
@[simp] theorem State.setV_fb : (s.setV a).fb = s.fb := rfl
@[simp] theorem State.setV_keys : (s.setV a).keys = s.keys := rfl
@[simp] theorem State.setV_fault : (s.setV a).fault = s.fault := rfl
@[simp] theorem State.setV_draws : (s.setV a).draws = s.draws := rfl
end

section
variable (s : State) (a : Word)
@[simp] theorem State.setI_v : (s.setI a).v = s.v := rfl
@[simp] theorem State.setI_i : (s.setI a).i = a := rfl
@[simp] theorem State.setI_pc : (s.setI a).pc = s.pc := rfl
@[simp] theorem State.setI_sp : (s.setI a).sp = s.sp := rfl
@[simp] theorem State.setI_stack : (s.setI a).stack = s.stack := rfl
@[simp] theorem State.setI_dt : (s.setI a).dt = s.dt := rfl
@[simp] theorem State.setI_st : (s.setI a).st = s.st := rfl
@[simp] theorem State.setI_mem : (s.setI a).mem = s.mem := rfl
@[simp] theorem State.setI_fb : (s.setI a).fb = s.fb := rfl
@[simp] theorem State.setI_keys : (s.setI a).keys = s.keys := rfl
@[simp] theorem State.setI_fault : (s.setI a).fault = s.fault := rfl
@[simp] theorem State.setI_draws : (s.setI a).draws = s.draws := rfl
end

section
variable (s : State) (a : Word)
@[simp] theorem State.setPc_v : (s.setPc a).v = s.v := rfl
@[simp] theorem State.setPc_i : (s.setPc a).i = s.i := rfl
@[simp] theorem State.setPc_pc : (s.setPc a).pc = a := rfl
@[simp] theorem State.setPc_sp : (s.setPc a).sp = s.sp := rfl
@[simp] theorem State.setPc_stack : (s.setPc a).stack = s.stack := rfl
@[simp] theorem State.setPc_dt : (s.setPc a).dt = s.dt := rfl
@[simp] theorem State.setPc_st : (s.setPc a).st = s.st := rfl
@[simp] theorem State.setPc_mem : (s.setPc a).mem = s.mem := rfl
@[simp] theorem State.setPc_fb : (s.setPc a).fb = s.fb := rfl
@[simp] theorem State.setPc_keys : (s.setPc a).keys = s.keys := rfl
@[simp] theorem State.setPc_fault : (s.setPc a).fault = s.fault := rfl
@[simp] theorem State.setPc_draws : (s.setPc a).draws = s.draws := rfl
end

section
variable (s : State) (a : Fin 17)
@[simp] theorem State.setSp_v : (s.setSp a).v = s.v := rfl
@[simp] theorem State.setSp_i : (s.setSp a).i = s.i := rfl
@[simp] theorem State.setSp_pc : (s.setSp a).pc = s.pc := rfl
@[simp] theorem State.setSp_sp : (s.setSp a).sp = a := rfl
@[simp] theorem State.setSp_stack : (s.setSp a).stack = s.stack := rfl
@[simp] theorem State.setSp_dt : (s.setSp a).dt = s.dt := rfl
@[simp] theorem State.setSp_st : (s.setSp a).st = s.st := rfl
@[simp] theorem State.setSp_mem : (s.setSp a).mem = s.mem := rfl
@[simp] theorem State.setSp_fb : (s.setSp a).fb = s.fb := rfl
@[simp] theorem State.setSp_keys : (s.setSp a).keys = s.keys := rfl
@[simp] theorem State.setSp_fault : (s.setSp a).fault = s.fault := rfl
@[simp] theorem State.setSp_draws : (s.setSp a).draws = s.draws := rfl
end

section
variable (s : State) (a : Vector Word 16)
@[simp] theorem State.setStack_v : (s.setStack a).v = s.v := rfl
@[simp] theorem State.setStack_i : (s.setStack a).i = s.i := rfl
@[simp] theorem State.setStack_pc : (s.setStack a).pc = s.pc := rfl
@[simp] theorem State.setStack_sp : (s.setStack a).sp = s.sp := rfl
@[simp] theorem State.setStack_stack : (s.setStack a).stack = a := rfl
@[simp] theorem State.setStack_dt : (s.setStack a).dt = s.dt := rfl
@[simp] theorem State.setStack_st : (s.setStack a).st = s.st := rfl
@[simp] theorem State.setStack_mem : (s.setStack a).mem = s.mem := rfl
@[simp] theorem State.setStack_fb : (s.setStack a).fb = s.fb := rfl
@[simp] theorem State.setStack_keys : (s.setStack a).keys = s.keys := rfl
@[simp] theorem State.setStack_fault : (s.setStack a).fault = s.fault := rfl
@[simp] theorem State.setStack_draws : (s.setStack a).draws = s.draws := rfl
end

section
variable (s : State) (a : Byte)
@[simp] theorem State.setDt_v : (s.setDt a).v = s.v := rfl
@[simp] theorem State.setDt_i : (s.setDt a).i = s.i := rfl
@[simp] theorem State.setDt_pc : (s.setDt a).pc = s.pc := rfl
@[simp] theorem State.setDt_sp : (s.setDt a).sp = s.sp := rfl
@[simp] theorem State.setDt_stack : (s.setDt a).stack = s.stack := rfl
@[simp] theorem State.setDt_dt : (s.setDt a).dt = a := rfl
@[simp] theorem State.setDt_st : (s.setDt a).st = s.st := rfl
@[simp] theorem State.setDt_mem : (s.setDt a).mem = s.mem := rfl
@[simp] theorem State.setDt_fb : (s.setDt a).fb = s.fb := rfl
@[simp] theorem State.setDt_keys : (s.setDt a).keys = s.keys := rfl
@[simp] theorem State.setDt_fault : (s.setDt a).fault = s.fault := rfl
@[simp] theorem State.setDt_draws : (s.setDt a).draws = s.draws := rfl
end

section
variable (s : State) (a : Byte)
@[simp] theorem State.setSt_v : (s.setSt a).v = s.v := rfl
@[simp] theorem State.setSt_i : (s.setSt a).i = s.i := rfl
@[simp] theorem State.setSt_pc : (s.setSt a).pc = s.pc := rfl
@[simp] theorem State.setSt_sp : (s.setSt a).sp = s.sp := rfl
@[simp] theorem State.setSt_stack : (s.setSt a).stack = s.stack := rfl
@[simp] theorem State.setSt_dt : (s.setSt a).dt = s.dt := rfl
@[simp] theorem State.setSt_st : (s.setSt a).st = a := rfl
@[simp] theorem State.setSt_mem : (s.setSt a).mem = s.mem := rfl
@[simp] theorem State.setSt_fb : (s.setSt a).fb = s.fb := rfl
@[simp] theorem State.setSt_keys : (s.setSt a).keys = s.keys := rfl
@[simp] theorem State.setSt_fault : (s.setSt a).fault = s.fault := rfl
@[simp] theorem State.setSt_draws : (s.setSt a).draws = s.draws := rfl
end

section
variable (s : State) (a : Memory)
@[simp] theorem State.setMem_v : (s.setMem a).v = s.v := rfl
@[simp] theorem State.setMem_i : (s.setMem a).i = s.i := rfl
@[simp] theorem State.setMem_pc : (s.setMem a).pc = s.pc := rfl
@[simp] theorem State.setMem_sp : (s.setMem a).sp = s.sp := rfl
@[simp] theorem State.setMem_stack : (s.setMem a).stack = s.stack := rfl
@[simp] theorem State.setMem_dt : (s.setMem a).dt = s.dt := rfl
@[simp] theorem State.setMem_st : (s.setMem a).st = s.st := rfl
@[simp] theorem State.setMem_mem : (s.setMem a).mem = a := rfl
@[simp] theorem State.setMem_fb : (s.setMem a).fb = s.fb := rfl
@[simp] theorem State.setMem_keys : (s.setMem a).keys = s.keys := rfl
@[simp] theorem State.setMem_fault : (s.setMem a).fault = s.fault := rfl
@[simp] theorem State.setMem_draws : (s.setMem a).draws = s.draws := rfl
end

section
variable (s : State) (a : Framebuffer)
@[simp] theorem State.setFb_v : (s.setFb a).v = s.v := rfl
@[simp] theorem State.setFb_i : (s.setFb a).i = s.i := rfl
@[simp] theorem State.setFb_pc : (s.setFb a).pc = s.pc := rfl
@[simp] theorem State.setFb_sp : (s.setFb a).sp = s.sp := rfl
@[simp] theorem State.setFb_stack : (s.setFb a).stack = s.stack := rfl
@[simp] theorem State.setFb_dt : (s.setFb a).dt = s.dt := rfl
@[simp] theorem State.setFb_st : (s.setFb a).st = s.st := rfl
@[simp] theorem State.setFb_mem : (s.setFb a).mem = s.mem := rfl
@[simp] theorem State.setFb_fb : (s.setFb a).fb = a := rfl
@[simp] theorem State.setFb_keys : (s.setFb a).keys = s.keys := rfl
@[simp] theorem State.setFb_fault : (s.setFb a).fault = s.fault := rfl
@[simp] theorem State.setFb_draws : (s.setFb a).draws = s.draws := rfl
end

section
variable (s : State) (a : Vector Bool 16)
@[simp] theorem State.setKeys_v : (s.setKeys a).v = s.v := rfl
@[simp] theorem State.setKeys_i : (s.setKeys a).i = s.i := rfl
@[simp] theorem State.setKeys_pc : (s.setKeys a).pc = s.pc := rfl
@[simp] theorem State.setKeys_sp : (s.setKeys a).sp = s.sp := rfl
@[simp] theorem State.setKeys_stack : (s.setKeys a).stack = s.stack := rfl
@[simp] theorem State.setKeys_dt : (s.setKeys a).dt = s.dt := rfl
@[simp] theorem State.setKeys_st : (s.setKeys a).st = s.st := rfl
@[simp] theorem State.setKeys_mem : (s.setKeys a).mem = s.mem := rfl
@[simp] theorem State.setKeys_fb : (s.setKeys a).fb = s.fb := rfl
@[simp] theorem State.setKeys_keys : (s.setKeys a).keys = a := rfl
@[simp] theorem State.setKeys_fault : (s.setKeys a).fault = s.fault := rfl
@[simp] theorem State.setKeys_draws : (s.setKeys a).draws = s.draws := rfl
end

section
variable (s : State) (a : Option FaultRecord)
@[simp] theorem State.setFault_v : (s.setFault a).v = s.v := rfl
@[simp] theorem State.setFault_i : (s.setFault a).i = s.i := rfl
@[simp] theorem State.setFault_pc : (s.setFault a).pc = s.pc := rfl
@[simp] theorem State.setFault_sp : (s.setFault a).sp = s.sp := rfl
@[simp] theorem State.setFault_stack : (s.setFault a).stack = s.stack := rfl
@[simp] theorem State.setFault_dt : (s.setFault a).dt = s.dt := rfl
@[simp] theorem State.setFault_st : (s.setFault a).st = s.st := rfl
@[simp] theorem State.setFault_mem : (s.setFault a).mem = s.mem := rfl
@[simp] theorem State.setFault_fb : (s.setFault a).fb = s.fb := rfl
@[simp] theorem State.setFault_keys : (s.setFault a).keys = s.keys := rfl
@[simp] theorem State.setFault_fault : (s.setFault a).fault = a := rfl
@[simp] theorem State.setFault_draws : (s.setFault a).draws = s.draws := rfl
end

section
variable (s : State) (a : Nat)
@[simp] theorem State.setDraws_v : (s.setDraws a).v = s.v := rfl
@[simp] theorem State.setDraws_i : (s.setDraws a).i = s.i := rfl
@[simp] theorem State.setDraws_pc : (s.setDraws a).pc = s.pc := rfl
@[simp] theorem State.setDraws_sp : (s.setDraws a).sp = s.sp := rfl
@[simp] theorem State.setDraws_stack : (s.setDraws a).stack = s.stack := rfl
@[simp] theorem State.setDraws_dt : (s.setDraws a).dt = s.dt := rfl
@[simp] theorem State.setDraws_st : (s.setDraws a).st = s.st := rfl
@[simp] theorem State.setDraws_mem : (s.setDraws a).mem = s.mem := rfl
@[simp] theorem State.setDraws_fb : (s.setDraws a).fb = s.fb := rfl
@[simp] theorem State.setDraws_keys : (s.setDraws a).keys = s.keys := rfl
@[simp] theorem State.setDraws_fault : (s.setDraws a).fault = s.fault := rfl
@[simp] theorem State.setDraws_draws : (s.setDraws a).draws = a := rfl
end

section
variable (s : State) (x : RegIdx) (b : Byte)
@[simp] theorem State.writeReg_i : (s.writeReg x b).i = s.i := rfl
@[simp] theorem State.writeReg_pc : (s.writeReg x b).pc = s.pc := rfl
@[simp] theorem State.writeReg_sp : (s.writeReg x b).sp = s.sp := rfl
@[simp] theorem State.writeReg_stack : (s.writeReg x b).stack = s.stack := rfl
@[simp] theorem State.writeReg_dt : (s.writeReg x b).dt = s.dt := rfl
@[simp] theorem State.writeReg_st : (s.writeReg x b).st = s.st := rfl
@[simp] theorem State.writeReg_mem : (s.writeReg x b).mem = s.mem := rfl
@[simp] theorem State.writeReg_fb : (s.writeReg x b).fb = s.fb := rfl
@[simp] theorem State.writeReg_keys : (s.writeReg x b).keys = s.keys := rfl
@[simp] theorem State.writeReg_fault : (s.writeReg x b).fault = s.fault := rfl
@[simp] theorem State.writeReg_draws : (s.writeReg x b).draws = s.draws := rfl
end

end Sys2Proof.Machine
end

