-- ==== Sys2Proof/Laws/Memory.lean ====
section
/-! SUPPORT. The laws of memory: a read after a write, the canonical form kept by every write, multi-byte accesses, and
the range check. -/

namespace Sys2Proof.Machine

theorem lookup_insertCell (a a' : Nat) (b : Byte) (cs : List Host.Cell) :
    lookupCell a' (insertCell a b cs) = if a = a' then some b else lookupCell a' cs := by
  induction cs with
  | nil => rfl
  | cons c cs ih =>
    unfold insertCell
    split
    · rfl
    · split
      · next h => by_cases h' : a = a' <;> simp [lookupCell, ← h, h']
      · next h =>
        by_cases h' : c.1 = a'
        · simp [lookupCell, h', show ¬ a = a' by omega]
        · simp [lookupCell, h', ih]

theorem lookup_eraseCell (a a' : Nat) (cs : List Host.Cell) :
    lookupCell a' (eraseCell a cs) = if a = a' then none else lookupCell a' cs := by
  induction cs with
  | nil => simp [eraseCell, lookupCell]
  | cons c cs ih =>
    by_cases hc : c.1 = a <;> by_cases h : a = a' <;> simp_all [eraseCell, lookupCell]

theorem mem_eraseCell {a : Nat} {c : Host.Cell} {cs : List Host.Cell} (h : c ∈ eraseCell a cs) : c ∈ cs := by
  induction cs with
  | nil => exact h
  | cons d cs ih =>
    unfold eraseCell at h
    split at h
    · exact List.mem_cons_of_mem _ (ih h)
    · rcases List.mem_cons.mp h with rfl | h
      · exact List.mem_cons_self
      · exact List.mem_cons_of_mem _ (ih h)

theorem pairwise_eraseCell (a : Nat) (cs : List Host.Cell) (h : cs.Pairwise (fun c d => c.1 < d.1)) :
    (eraseCell a cs).Pairwise (fun c d => c.1 < d.1) := by
  induction cs with
  | nil => exact h
  | cons c cs ih =>
    have hc := List.pairwise_cons.mp h
    unfold eraseCell
    split
    · exact ih hc.2
    · exact List.pairwise_cons.mpr ⟨fun d hd => hc.1 d (mem_eraseCell hd), ih hc.2⟩

@[simp] theorem Memory.write_glyphs (m : Memory) (a : Nat) (b : Byte) : (m.write a b).glyphs = m.glyphs := by
  unfold Memory.write; split <;> rfl

/-- Reading after a write: the written byte at the address, the old one elsewhere. -/
theorem Memory.read_write (m : Memory) (a a' : Nat) (b : Byte) :
    (m.write a b).read a' = if a = a' then b else m.read a' := by
  unfold Memory.read
  rw [Memory.write_glyphs]
  unfold Memory.write
  split
  · next h => by_cases h' : a = a' <;> simp [lookup_eraseCell, h', h]
  · by_cases h' : a = a' <;> simp [lookup_insertCell, h']

theorem mem_insertCell {a : Nat} {b : Byte} {c : Host.Cell} {cs : List Host.Cell} (h : c ∈ insertCell a b cs) :
    c = (a, b) ∨ c ∈ cs := by
  induction cs with
  | nil => simpa [insertCell] using h
  | cons d cs ih =>
    unfold insertCell at h
    split at h
    · simpa using h
    · split at h
      · simp at h; rcases h with h | h <;> simp [h]
      · simp at h
        rcases h with h | h
        · simp [h]
        · rcases ih h with h | h <;> simp [h]

theorem pairwise_insertCell (a : Nat) (b : Byte) (cs : List Host.Cell)
    (h : cs.Pairwise (fun c d => c.1 < d.1)) : (insertCell a b cs).Pairwise (fun c d => c.1 < d.1) := by
  induction cs with
  | nil => simp [insertCell]
  | cons c cs ih =>
    have hc := List.pairwise_cons.mp h
    unfold insertCell
    split
    · next hlt =>
      refine List.pairwise_cons.mpr ⟨fun d hd => ?_, h⟩
      rcases List.mem_cons.mp hd with rfl | hd
      · exact hlt
      · exact Nat.lt_trans hlt (hc.1 d hd)
    · split
      · next heq => exact List.pairwise_cons.mpr ⟨fun d hd => by have := hc.1 d hd; simp; omega, hc.2⟩
      · refine List.pairwise_cons.mpr ⟨fun d hd => ?_, ih hc.2⟩
        rcases mem_insertCell hd with rfl | hd
        · simp; omega
        · exact hc.1 d hd

/-- A write inside MEM keeps the canonical form. -/
theorem Memory.wf_write {m : Memory} {a : Nat} (b : Byte) (h : m.wf) (ha : a < memSize) : (m.write a b).wf := by
  unfold Memory.write
  split
  · exact ⟨pairwise_eraseCell a _ h.1, fun c hc => h.2 c (mem_eraseCell hc)⟩
  · next hb =>
    refine ⟨pairwise_insertCell a b _ h.1, fun c hc => ?_⟩
    rcases mem_insertCell hc with rfl | hc
    · exact ⟨ha, hb⟩
    · exact h.2 c hc

@[simp] theorem Memory.writeBytes_glyphs (m : Memory) (a : Nat) (bs : List Byte) :
    (m.writeBytes a bs).glyphs = m.glyphs := by
  induction bs generalizing m a with
  | nil => rfl
  | cons b bs ih => simp [Memory.writeBytes, ih]

/-- Reading after a multi-byte store: the stored byte inside the range, the old one outside. -/
theorem Memory.read_writeBytes (m : Memory) (a a' : Nat) (bs : List Byte) :
    (m.writeBytes a bs).read a' = if a ≤ a' then bs[a' - a]?.getD (m.read a') else m.read a' := by
  induction bs generalizing m a with
  | nil => simp [Memory.writeBytes]
  | cons b bs ih =>
    rw [Memory.writeBytes, ih, Memory.read_write]
    by_cases h1 : a = a'
    · subst h1; simp
    · by_cases h2 : a + 1 ≤ a'
      · have h3 : a ≤ a' := by omega
        have h4 : a' - a = (a' - (a + 1)) + 1 := by omega
        simp [h1, h2, h3, h4]
      · have h3 : ¬ a ≤ a' := by omega
        simp [h1, h2, h3]

/-- A multi-byte store inside MEM keeps the canonical form. -/
theorem Memory.wf_writeBytes {m : Memory} {a : Nat} {bs : List Byte} (h : m.wf) (ha : a + bs.length ≤ memSize) :
    (m.writeBytes a bs).wf := by
  induction bs generalizing m a with
  | nil => exact h
  | cons b bs ih =>
    simp only [List.length_cons] at ha
    exact ih (Memory.wf_write b h (by omega)) (by omega)

@[simp] theorem Memory.readBytes_length (m : Memory) (a n : Nat) : (m.readBytes a n).length = n := by
  simp [Memory.readBytes]

theorem Memory.readBytes_getElem? (m : Memory) (a n k : Nat) (h : k < n) :
    (m.readBytes a n)[k]? = some (m.read (a + k)) := by
  simp [Memory.readBytes, h]

/-- An access that passes the range check lies inside MEM. -/
theorem rangeFault_none {a n : Nat} : rangeFault a n = none ↔ n = 0 ∨ a + n ≤ memSize := by
  unfold rangeFault memSize
  split <;> simp <;> omega

/-- An access that fails the range check reports the larger of its base and 0x1000. -/
theorem rangeFault_some {a n b : Nat} :
    rangeFault a n = some b ↔ (0 < n ∧ memSize < a + n) ∧ b = max a 0x1000 := by
  unfold rangeFault memSize
  split
  · next h => simp only [Option.some.injEq]; constructor
              · rintro rfl; exact ⟨by omega, rfl⟩
              · rintro ⟨-, rfl⟩; rfl
  · next h => simp only [reduceCtorEq, false_iff]; rintro ⟨h', -⟩; omega

/-- Memory after reset is in canonical form, whatever GLYPH_ROM is. -/
theorem Memory.wf_reset (g : Vector Byte 80) : (State.resetWith g).mem.wf := by
  refine ⟨?_, ?_⟩ <;> simp [State.resetWith]

end Sys2Proof.Machine
end

