-- ==== Sys2Proof/Laws/Ops.lean ====
section
/-! SUPPORT. What each shared operation over the state does, said once. -/

namespace Sys2Proof.Machine

/-! ### Registers -/

theorem State.v_writeReg (s : State) (x r : RegIdx) (b : Byte) :
    (s.writeReg x b).v[r] = if x = r then b else s.v[r] := by
  by_cases h : x = r
  · subst h; simp [State.writeReg]
  · have : x.val ≠ r.val := fun e => h (Fin.ext e)
    simp [State.writeReg, h, this]

/-- A register write changes the registers alone. -/
theorem State.writeReg_eq (s : State) (x : RegIdx) (b : Byte) : s.writeReg x b = s.setV (s.v.set x b) := rfl

/-- Both writes of a flagged operation, in either order, change the registers alone. -/
theorem State.writeBoth_eq (s : State) (o : VfOrder) (x : RegIdx) (res : Byte) (f : Bool) :
    s.writeBoth o x res f = s.setV (s.writeBoth o x res f).v := by
  cases o <;> rfl

/-- The registers after both writes: the flag in `V[15]`, the result in `V[x]`, and where they collide the later write. -/
theorem State.v_writeBoth (s : State) (o : VfOrder) (x r : RegIdx) (res : Byte) (f : Bool) :
    (s.writeBoth o x res f).v[r] =
      if x = r ∧ r = flagReg then (match o with | .flagLast => flagByte f | .resultLast => res)
      else if x = r then res else if flagReg = r then flagByte f else s.v[r] := by
  cases o <;> simp only [State.writeBoth, State.v_writeReg] <;> by_cases h : x = r <;>
    by_cases h' : flagReg = r <;> simp_all [eq_comm]

@[simp] theorem flagByte_toNat (c : Bool) : (flagByte c).toNat = if c then 1 else 0 := by cases c <;> rfl

/-! ### Results and flags as exact integers -/

theorem addFlag_iff (a b : Byte) : addFlag a b = true ↔ 255 < a.toNat + b.toNat := by simp [addFlag]

theorem subFlag_iff (a b : Byte) : subFlag a b = true ↔ b.toNat < a.toNat := by simp [subFlag]

theorem addResult_toNat (a b : Byte) : (addResult a b).toNat = (a.toNat + b.toNat) % 256 := by
  simp [addResult, BitVec.toNat_add]

theorem subResult_toNat (a b : Byte) : (subResult a b).toNat = (a.toNat + 256 - b.toNat) % 256 := by
  have := b.isLt; have := a.isLt
  rw [subResult, BitVec.toNat_sub]; omega

theorem shrResult_toNat (a : Byte) : (shrResult a).toNat = a.toNat / 2 := by
  simp [shrResult, Nat.shiftRight_succ]

theorem shlResult_toNat (a : Byte) : (shlResult a).toNat = a.toNat * 2 % 256 := by
  simp [shlResult, Nat.shiftLeft_succ, Nat.mul_comm]

theorem shrFlag_toNat (a : Byte) : (flagByte (shrFlag a)).toNat = a.toNat % 2 := by
  have h : shrFlag a = decide (a.toNat % 2 = 1) := by
    rw [shrFlag, BitVec.getLsbD, Nat.testBit_zero]
  rw [h]; unfold flagByte; split <;> simp_all

theorem shlFlag_toNat (a : Byte) : (flagByte (shlFlag a)).toNat = a.toNat / 128 := by
  have := a.isLt
  have h : shlFlag a = decide (a.toNat / 128 % 2 = 1) := by
    rw [shlFlag, BitVec.getLsbD, Nat.testBit_eq_decide_div_mod_eq]
  rw [h]; unfold flagByte; split <;> simp_all <;> omega

/-! ### Faults -/

theorem State.latchFault_eq (s : State) (f : FaultRecord) (h : s.fault = none) :
    s.latchFault f = s.setFault (some f) := by
  simp [State.latchFault, h]

/-- The first fault stays (R32). -/
theorem State.latchFault_keeps (s : State) (f g : FaultRecord) (h : s.fault = some g) : s.latchFault f = s := by
  cases s; simp_all [State.latchFault, State.setFault]

/-- A fault raised during execution changes `pc` and FAULT alone (R183). -/
theorem State.raise_eq (s : State) (f : FaultRecord) (h : s.fault = none) :
    s.raise f = (s.setPc (s.pc - 2)).setFault (some f) := by
  simp [State.raise, State.latchFault, h]

/-- Raising in the state after the pc advance leaves the state before it, with FAULT latched (R183). -/
theorem State.raise_advancePc (s : State) (f : FaultRecord) (h : s.fault = none) :
    s.advancePc.raise f = s.setFault (some f) := by
  have : s.pc + 2 - 2 = s.pc := by simp
  rw [State.raise_eq _ _ (by simpa [State.advancePc] using h)]
  cases s; simp_all [State.advancePc, State.setPc, State.setFault]

/-! ### Control flow -/

/-- A skip changes `pc` alone. -/
theorem State.skipIf_eq (s : State) (c : Bool) : s.skipIf c = s.setPc (if c then s.pc + 2 else s.pc) := by
  cases c <;> rfl

/-- CALL with room on the stack (R103). -/
theorem State.pushAndJump_room (s : State) (w : Word) (h : s.sp.val < 16) :
    s.pushAndJump w =
      ((s.setStack (s.stack.set s.sp.val s.pc)).setSp ⟨s.sp.val + 1, by omega⟩).setPc w := by
  simp [State.pushAndJump, h]

/-- CALL on a full stack (R181). -/
theorem State.pushAndJump_full (s : State) (w : Word) (h : s.sp.val = 16) :
    s.pushAndJump w = s.raise ⟨.stackOverflow, 0⟩ := by
  simp [State.pushAndJump, h]

/-- RET with a return address on the stack (R101). -/
theorem State.popToPc_some (s : State) (h : s.sp.val ≠ 0) :
    s.popToPc = (s.setSp ⟨s.sp.val - 1, by omega⟩).setPc (s.stack[s.sp.val - 1]'(by omega)) := by
  simp [State.popToPc, h]

/-- RET on an empty stack (R182). -/
theorem State.popToPc_empty (s : State) (h : s.sp.val = 0) : s.popToPc = s.raise ⟨.stackUnderflow, 0⟩ := by
  simp [State.popToPc, h]

/-! ### The parts of a cycle -/

/-- Fetch where both bytes exist (R70). -/
theorem State.fetch_ok (s : State) (h : s.pc.toNat ≤ 0xFFE) :
    s.fetch = .ok (s.mem.read s.pc.toNat ++ s.mem.read (s.pc.toNat + 1)) := by
  have : rangeFault s.pc.toNat 2 = none := rangeFault_none.mpr (.inr (by simp only [memSize]; omega))
  simp [State.fetch, this]

/-- Fetch where a byte is missing (R70). -/
theorem State.fetch_error (s : State) (h : 0xFFE < s.pc.toNat) : s.fetch = .error (max s.pc.toNat 0x1000) := by
  have : rangeFault s.pc.toNat 2 = some (max s.pc.toNat 0x1000) :=
    rangeFault_some.mpr ⟨⟨by omega, by simp only [memSize]; omega⟩, rfl⟩
  simp [State.fetch, this]

/-- A timer goes down by 1 and stays at 0 (R164). -/
theorem decayTimer_toNat (t : Byte) : (decayTimer t).toNat = t.toNat - 1 := by
  unfold decayTimer
  split
  · next h => rw [BitVec.toNat_sub]; have := t.isLt; simp; omega
  · omega

/-- The end of a cycle without a fault (R164). -/
theorem finishCycle_ok (t : State) (h : t.fault = none) : finishCycle (.next t) = .next t.decay := by
  simp [finishCycle, h]

/-- The end of a cycle with a fault (R183). -/
theorem finishCycle_fault (t : State) (f : FaultRecord) (h : t.fault = some f) :
    finishCycle (.next t) = .next t := by
  simp [finishCycle, h]

/-- The address of an absolute operand (R74). -/
theorem absolute_toNat (nnn : Addr12) : (absolute nnn).toNat = nnn.toNat := by
  have := nnn.isLt
  simp [absolute, BitVec.toNat_setWidth]; omega

end Sys2Proof.Machine
end

