-- ==== Sys2Proof/Laws/PerInstr.lean ====
section
/-! SUPPORT. A statement about every instruction as syntax, one lemma per constructor: its canonical word has the fixed
bits of its own row of the opcode map (30_encoding.md R82). -/

namespace Sys2Proof

/-! ### A word under the masks of R82 -/

theorem and_wordA (f : Nibble) (nnn : Addr12) : wordA f nnn &&& 0xF000 = f ++ (0 : Addr12) := by
  apply BitVec.eq_of_getLsbD_eq; intro i hi
  simp only [wordA, BitVec.getLsbD_and, BitVec.getLsbD_append]
  interval_cases i <;> simp

theorem and_wordXK (f : Nibble) (x : RegIdx) (kk : Byte) : wordXK f x kk &&& 0xF000 = f ++ (0 : Addr12) := by
  apply BitVec.eq_of_getLsbD_eq; intro i hi
  simp only [wordXK, BitVec.getLsbD_and, BitVec.getLsbD_append]
  interval_cases i <;> simp

theorem andSS_wordXK (f : Nibble) (x : RegIdx) (kk : Byte) :
    wordXK f x kk &&& 0xF0FF = f ++ (0 : Nibble) ++ kk := by
  apply BitVec.eq_of_getLsbD_eq; intro i hi
  simp only [wordXK, BitVec.getLsbD_and, BitVec.getLsbD_append]
  interval_cases i <;> simp

theorem and_wordXY (f : Nibble) (x y n : Fin 16) : wordXY f x y n &&& 0xF000 = f ++ (0 : Addr12) := by
  apply BitVec.eq_of_getLsbD_eq; intro i hi
  simp only [wordXY, BitVec.getLsbD_and, BitVec.getLsbD_append]
  interval_cases i <;> simp

theorem andS_wordXY (f : Nibble) (x y n : Fin 16) :
    wordXY f x y n &&& 0xF00F = f ++ (0 : Byte) ++ (BitVec.ofFin n : Nibble) := by
  apply BitVec.eq_of_getLsbD_eq; intro i hi
  simp only [wordXY, BitVec.getLsbD_and, BitVec.getLsbD_append]
  interval_cases i <;> simp

/-! ### The statement and its lemmas -/

/-- The instruction's canonical word selects the row of its own mnemonic. -/
def Laws.EncodeMatch.Statement (i : Instr) : Prop :=
  ∃ r ∈ opcodeTable, r.mnemonic = i.mnemonic ∧ r.selects (encode i) = true

theorem Laws.EncodeMatch.of_row {i : Instr} (k : Fin 34) (hm : (opcodeTable[k.val]'k.isLt).mnemonic = i.mnemonic)
    (hs : encode i &&& (opcodeTable[k.val]'k.isLt).mask = (opcodeTable[k.val]'k.isLt).bits) :
    Laws.EncodeMatch.Statement i :=
  ⟨opcodeTable[k.val]'k.isLt, List.getElem_mem _, hm, by simpa [OpcodeRow.selects] using hs⟩

theorem Laws.EncodeMatch.cls : Laws.EncodeMatch.Statement .cls :=
  of_row 0 rfl (rfl)

theorem Laws.EncodeMatch.ret : Laws.EncodeMatch.Statement .ret :=
  of_row 1 rfl (rfl)

theorem Laws.EncodeMatch.jp (nnn : Addr12) : Laws.EncodeMatch.Statement (.jp nnn) :=
  of_row 2 rfl ((and_wordA _ _).trans rfl)

theorem Laws.EncodeMatch.call (nnn : Addr12) : Laws.EncodeMatch.Statement (.call nnn) :=
  of_row 3 rfl ((and_wordA _ _).trans rfl)

theorem Laws.EncodeMatch.jpV0 (nnn : Addr12) : Laws.EncodeMatch.Statement (.jpV0 nnn) :=
  of_row 4 rfl ((and_wordA _ _).trans rfl)

theorem Laws.EncodeMatch.seImm (x : RegIdx) (kk : Byte) : Laws.EncodeMatch.Statement (.seImm x kk) :=
  of_row 5 rfl ((and_wordXK _ _ _).trans rfl)

theorem Laws.EncodeMatch.sneImm (x : RegIdx) (kk : Byte) : Laws.EncodeMatch.Statement (.sneImm x kk) :=
  of_row 6 rfl ((and_wordXK _ _ _).trans rfl)

theorem Laws.EncodeMatch.seReg (x y : RegIdx) : Laws.EncodeMatch.Statement (.seReg x y) :=
  of_row 7 rfl ((and_wordXY _ _ _ _).trans rfl)

theorem Laws.EncodeMatch.sneReg (x y : RegIdx) : Laws.EncodeMatch.Statement (.sneReg x y) :=
  of_row 8 rfl ((and_wordXY _ _ _ _).trans rfl)

theorem Laws.EncodeMatch.skp (x : RegIdx) : Laws.EncodeMatch.Statement (.skp x) :=
  of_row 9 rfl ((andSS_wordXK _ _ _).trans rfl)

theorem Laws.EncodeMatch.sknp (x : RegIdx) : Laws.EncodeMatch.Statement (.sknp x) :=
  of_row 10 rfl ((andSS_wordXK _ _ _).trans rfl)

theorem Laws.EncodeMatch.ldImm (x : RegIdx) (kk : Byte) : Laws.EncodeMatch.Statement (.ldImm x kk) :=
  of_row 11 rfl ((and_wordXK _ _ _).trans rfl)

theorem Laws.EncodeMatch.addImm (x : RegIdx) (kk : Byte) : Laws.EncodeMatch.Statement (.addImm x kk) :=
  of_row 12 rfl ((and_wordXK _ _ _).trans rfl)

theorem Laws.EncodeMatch.ldReg (x y : RegIdx) : Laws.EncodeMatch.Statement (.ldReg x y) :=
  of_row 13 rfl ((andS_wordXY _ _ _ _).trans rfl)

theorem Laws.EncodeMatch.orReg (x y : RegIdx) : Laws.EncodeMatch.Statement (.orReg x y) :=
  of_row 14 rfl ((andS_wordXY _ _ _ _).trans rfl)

theorem Laws.EncodeMatch.andReg (x y : RegIdx) : Laws.EncodeMatch.Statement (.andReg x y) :=
  of_row 15 rfl ((andS_wordXY _ _ _ _).trans rfl)

theorem Laws.EncodeMatch.xorReg (x y : RegIdx) : Laws.EncodeMatch.Statement (.xorReg x y) :=
  of_row 16 rfl ((andS_wordXY _ _ _ _).trans rfl)

theorem Laws.EncodeMatch.addReg (x y : RegIdx) : Laws.EncodeMatch.Statement (.addReg x y) :=
  of_row 17 rfl ((andS_wordXY _ _ _ _).trans rfl)

theorem Laws.EncodeMatch.subReg (x y : RegIdx) : Laws.EncodeMatch.Statement (.subReg x y) :=
  of_row 18 rfl ((andS_wordXY _ _ _ _).trans rfl)

theorem Laws.EncodeMatch.subnReg (x y : RegIdx) : Laws.EncodeMatch.Statement (.subnReg x y) :=
  of_row 19 rfl ((andS_wordXY _ _ _ _).trans rfl)

theorem Laws.EncodeMatch.shr (x : RegIdx) : Laws.EncodeMatch.Statement (.shr x) :=
  of_row 20 rfl ((andS_wordXY _ _ _ _).trans rfl)

theorem Laws.EncodeMatch.shl (x : RegIdx) : Laws.EncodeMatch.Statement (.shl x) :=
  of_row 21 rfl ((andS_wordXY _ _ _ _).trans rfl)

theorem Laws.EncodeMatch.rnd (x : RegIdx) (kk : Byte) : Laws.EncodeMatch.Statement (.rnd x kk) :=
  of_row 22 rfl ((and_wordXK _ _ _).trans rfl)

theorem Laws.EncodeMatch.ldI (nnn : Addr12) : Laws.EncodeMatch.Statement (.ldI nnn) :=
  of_row 23 rfl ((and_wordA _ _).trans rfl)

theorem Laws.EncodeMatch.addI (x : RegIdx) : Laws.EncodeMatch.Statement (.addI x) :=
  of_row 24 rfl ((andSS_wordXK _ _ _).trans rfl)

theorem Laws.EncodeMatch.ldF (x : RegIdx) : Laws.EncodeMatch.Statement (.ldF x) :=
  of_row 25 rfl ((andSS_wordXK _ _ _).trans rfl)

theorem Laws.EncodeMatch.ldB (x : RegIdx) : Laws.EncodeMatch.Statement (.ldB x) :=
  of_row 26 rfl ((andSS_wordXK _ _ _).trans rfl)

theorem Laws.EncodeMatch.stRegs (x : RegIdx) : Laws.EncodeMatch.Statement (.stRegs x) :=
  of_row 27 rfl ((andSS_wordXK _ _ _).trans rfl)

theorem Laws.EncodeMatch.ldRegs (x : RegIdx) : Laws.EncodeMatch.Statement (.ldRegs x) :=
  of_row 28 rfl ((andSS_wordXK _ _ _).trans rfl)

theorem Laws.EncodeMatch.drw (x y : RegIdx) (n : Fin 16) : Laws.EncodeMatch.Statement (.drw x y n) :=
  of_row 29 rfl ((and_wordXY _ _ _ _).trans rfl)

theorem Laws.EncodeMatch.ldVxDt (x : RegIdx) : Laws.EncodeMatch.Statement (.ldVxDt x) :=
  of_row 30 rfl ((andSS_wordXK _ _ _).trans rfl)

theorem Laws.EncodeMatch.ldDt (x : RegIdx) : Laws.EncodeMatch.Statement (.ldDt x) :=
  of_row 31 rfl ((andSS_wordXK _ _ _).trans rfl)

theorem Laws.EncodeMatch.ldSt (x : RegIdx) : Laws.EncodeMatch.Statement (.ldSt x) :=
  of_row 32 rfl ((andSS_wordXK _ _ _).trans rfl)

theorem Laws.EncodeMatch.ldKey (x : RegIdx) : Laws.EncodeMatch.Statement (.ldKey x) :=
  of_row 33 rfl ((andSS_wordXK _ _ _).trans rfl)

end Sys2Proof
end

