-- ==== Sys2Proof/Laws/Step.lean ====
section
/-! SUPPORT. What a cycle can do, said once. -/

namespace Sys2Proof.Machine

/-- The ways a cycle can go (R72): halted, a fault in fetch, a no-op word, or an operation. -/
theorem step_cases (s : State) :
    (∃ f, s.fault = some f ∧ step s = .next s) ∨
    (s.Running ∧ ¬ s.Fetchable ∧ step s = .next (s.fetchFault (max s.pc.toNat 0x1000))) ∨
    (s.Running ∧ s.Fetchable ∧ decode s.wordAtPc = none ∧ step s = .next s.advancePc.decay) ∨
    (∃ i, s.Executes i ∧ step s = finishCycle (exec i s.advancePc)) := by
  cases hf : s.fault with
  | some f => exact .inl ⟨f, rfl, by simp [step, hf, haltedCycle]⟩
  | none =>
    by_cases hp : s.Fetchable
    · cases hd : decode s.wordAtPc with
      | none =>
        refine .inr (.inr (.inl ⟨hf, hp, rfl, ?_⟩))
        simp only [State.wordAtPc, wordOfBytes] at hd
        simp [step, hf, s.fetch_ok hp, hd, noOperation, finishCycle, State.advancePc]
      | some i =>
        refine .inr (.inr (.inr ⟨i, ⟨hf, hp, hd⟩, ?_⟩))
        simp only [State.wordAtPc, wordOfBytes] at hd
        simp [step, hf, s.fetch_ok hp, hd]
    · exact .inr (.inl ⟨hf, hp, by simp [step, hf, s.fetch_error (Nat.lt_of_not_le hp)]⟩)

end Sys2Proof.Machine
end

