-- ==== Sys2Proof/Tests/Slice0.lean ====
section
/-! SUPPORT. Tests of the model. Expected values are the vectors of 95_test_vectors.md (named S, T, A, M, G, K, H there)
or are worked out by hand from the rule cited. The witnesses at the end meet the hypotheses of the statements. -/

namespace Sys2Proof.Tests

open Sys2Proof Sys2Proof.Machine

/-! ### Well-formedness: the words and programs the checks refuse -/

/-- R76, R80: 0x0AE0, 0x01EE, 0x512F, 0x9121, 0x81F6, 0x812E set an ignored bit. -/
theorem test_wf_words_refused :
    [0x0AE0, 0x01EE, 0x512F, 0x9121, 0x81F6, 0x812E].map canonicalWord =
      [false, false, false, false, false, false] := by decide

theorem test_wf_words_accepted :
    [0x00E0, 0x00EE, 0x5120, 0x9120, 0x8106, 0x810E, 0x8FF7, 0x0123].map canonicalWord =
      [true, true, true, true, true, true, true, true] := by decide

/-- S1: 3584 bytes are too many, 3583 are not. -/
theorem test_wf_program_length (b : Byte) :
    programFits (List.replicate 3584 b) = false ∧ programFits (List.replicate 3583 b) = true := by
  simp only [programFits, List.length_replicate, progMax]; decide

theorem test_wf_instr : Instr.wellFormed (.drw 15 15 15) = true := by decide

/-! ### Decoding: words written out from R82's bit patterns, and their encodings -/

theorem test_decode_control :
    [0x00E0, 0x00EE, 0x1ABC, 0x2ABC, 0xBABC, 0x37C5, 0x47C5, 0x57C0, 0x97C0, 0xE79E, 0xE7A1].map decode =
      [some .cls, some .ret, some (.jp 0xABC), some (.call 0xABC), some (.jpV0 0xABC), some (.seImm 7 0xC5),
       some (.sneImm 7 0xC5), some (.seReg 7 12), some (.sneReg 7 12), some (.skp 7), some (.sknp 7)] := by decide

theorem test_decode_arith :
    [0x67C5, 0x77C5, 0x87C0, 0x87C1, 0x87C2, 0x87C3, 0x87C4, 0x87C5, 0x87C6, 0x87C7, 0x87CE, 0xC7C5].map decode =
      [some (.ldImm 7 0xC5), some (.addImm 7 0xC5), some (.ldReg 7 12), some (.orReg 7 12), some (.andReg 7 12),
       some (.xorReg 7 12), some (.addReg 7 12), some (.subReg 7 12), some (.shr 7), some (.subnReg 7 12),
       some (.shl 7), some (.rnd 7 0xC5)] := by decide

theorem test_decode_memory :
    [0xAABC, 0xF71E, 0xF729, 0xF733, 0xF755, 0xF765, 0xD7C5, 0xF707, 0xF715, 0xF718, 0xF70A].map decode =
      [some (.ldI 0xABC), some (.addI 7), some (.ldF 7), some (.ldB 7), some (.stRegs 7), some (.ldRegs 7),
       some (.drw 7 12 5), some (.ldVxDt 7), some (.ldDt 7), some (.ldSt 7), some (.ldKey 7)] := by decide

theorem test_encode :
    [Instr.cls, .ret, .jp 0xABC, .seReg 7 12, .subnReg 7 12, .shl 7, .rnd 7 0xC5, .ldRegs 7, .drw 7 12 5,
     .ldKey 7].map encode =
      [0x00E0, 0x00EE, 0x1ABC, 0x57C0, 0x87C7, 0x870E, 0xC7C5, 0xF765, 0xD7C5, 0xF70A] := by decide

/-- R81: no-op words of families 0, 8, E and F. -/
theorem test_decode_no_op :
    [0x0000, 0x0123, 0x8128, 0x812D, 0x812F, 0xE49F, 0xF5FF, 0xF000].map decode =
      [none, none, none, none, none, none, none, none] := by decide

/-- R54, R73: high byte first; one byte is no instruction. -/
theorem test_decode_bytes :
    decodeBytes [0x6A, 0x42, 0x00] = (.op (.ldImm 10 0x42), [0x00]) ∧ decodeBytes [0x6A] = (.truncated, [0x6A]) ∧
      decodeBytes [0x81, 0x28] = (.noOperation 0x8128, []) := by decide

theorem test_decode_table_word :
    decodeTableWord 16 0x8127 = some (.subnReg 1 2) ∧ decodeTableWord 16 0x0000 = none := by decide

/-! ### One cycle on a small state -/

/-- The reset state with some registers. -/
def withRegs : List (RegIdx × Byte) → State
  | [] => State.reset
  | (x, b) :: l => (withRegs l).writeReg x b

/-- The reset state with some bytes of memory. -/
def withMem (a : Nat) (bs : List Byte) (s : State) : State := s.setMem (s.mem.writeBytes a bs)

/-- The state after the cycle that executes the word `w`. -/
def run (w : Nat) (s : State) : State := (s.withFetchWord 16 w).cycle

/-- The keys, one of them pressed. -/
def keyDown (k : Fin 16) : Vector Bool 16 := (Vector.replicate 16 false).set k true

/-- The reset screen with one lit cell. -/
def lit (r : Fin 32) (c : Fin 64) : Framebuffer := Framebuffer.setPixel State.reset.fb r c true

/-- `exec` of a flagged instruction (x not 15) leaves this result and this flag, whatever VF_ORDER is. -/
def Leaves (i : Instr) (s : State) (x : RegIdx) (res flag : Byte) : Prop :=
  ∃ t, exec i s = .next t ∧ t.v[x] = res ∧ t.v[flagReg] = flag

/-- T1, S3. -/
theorem test_cls : let t := run 0x00E0 (State.reset.setFb (lit 3 7))
    Framebuffer.pixel t.fb 3 7 = false ∧ t.pc = 0x0202 := by decide

/-- T3: the slot keeps its value. -/
theorem test_ret : let t := run 0x00EE (((State.reset.setPc 0x300).setSp 1).setStack (State.reset.stack.set 0 0x204))
    t.pc = 0x0204 ∧ t.sp = 0 ∧ t.stack[0] = 0x0204 := by decide

/-- T4. -/
theorem test_ret_underflow : let t := run 0x00EE State.reset
    t.fault = some ⟨.stackUnderflow, 0⟩ ∧ t.pc = 0x0200 ∧ t.sp = 0 := by decide

/-- T5. -/
theorem test_jp : (run 0x1234 State.reset).pc = 0x0234 := by decide

/-- T8. -/
theorem test_call : let t := run 0x2300 (State.reset.setPc 0x202)
    t.stack[0] = 0x0204 ∧ t.sp = 1 ∧ t.pc = 0x0300 := by decide

/-- T9: no slot written. -/
theorem test_call_overflow : let t := run 0x2300 (State.reset.setSp 16)
    t.fault = some ⟨.stackOverflow, 0⟩ ∧ t.pc = 0x0200 ∧ t.sp = 16 ∧ t.stack = State.reset.stack := by decide

/-- T11: the sum is not reduced to 12 bits. -/
theorem test_jp_v0 : (run 0xBFFF (withRegs [(0, 0xFF)])).pc = 0x10FE := by decide

/-- T12, T13. -/
theorem test_se_imm : (run 0x332A (withRegs [(3, 0x2A)])).pc = 0x0204 ∧
    (run 0x332A (withRegs [(3, 0x2B)])).pc = 0x0202 := by decide

/-- T14, T15. -/
theorem test_sne_imm : (run 0x432A (withRegs [(3, 0x2A)])).pc = 0x0202 ∧
    (run 0x4300 (withRegs [(3, 0x2A)])).pc = 0x0204 := by decide

/-- T17, T18: the low nibble is ignored. -/
theorem test_se_reg : (run 0x512F (withRegs [(1, 7), (2, 7)])).pc = 0x0204 ∧
    (run 0x5120 (withRegs [(1, 7), (2, 8)])).pc = 0x0202 := by decide

/-- T19, T20. -/
theorem test_sne_reg : (run 0x9120 (withRegs [(1, 7), (2, 8)])).pc = 0x0204 ∧
    (run 0x9110 (withRegs [(1, 7)])).pc = 0x0202 := by decide

/-- T22, T23. -/
theorem test_skp : (run 0xE49E ((withRegs [(4, 10)]).setKeys (keyDown 10))).pc = 0x0204 ∧
    (run 0xE49E (withRegs [(4, 10)])).pc = 0x0202 := by decide

/-- T27. -/
theorem test_skp_fault : let t := run 0xE49E (withRegs [(4, 0xFF)])
    t.fault = some ⟨.keyIndexOutOfRange, 255⟩ ∧ t.pc = 0x0200 := by decide

/-- T24, T25. -/
theorem test_sknp : (run 0xE4A1 (withRegs [(4, 10)])).pc = 0x0204 ∧
    (run 0xE4A1 ((withRegs [(4, 10)]).setKeys (keyDown 10))).pc = 0x0202 := by decide

/-- T26. -/
theorem test_sknp_fault : let t := run 0xE4A1 (withRegs [(4, 0x10)])
    t.fault = some ⟨.keyIndexOutOfRange, 16⟩ ∧ t.pc = 0x0200 := by decide

/-- A1. -/
theorem test_ld_imm : (run 0x6A2F State.reset).v[10] = 0x2F := by decide

/-- A3, A5: no flag; `V[15]` an ordinary destination. -/
theorem test_add_imm : let t := run 0x7120 (withRegs [(1, 0xF0), (15, 0x55)])
    t.v[1] = 0x10 ∧ t.v[15] = 0x55 ∧ (run 0x7F01 (withRegs [(15, 0xFF)])).v[15] = 0 := by decide

/-- A6. -/
theorem test_ld_reg : let t := run 0x8120 (withRegs [(2, 0x77)])
    t.v[1] = 0x77 ∧ t.v[2] = 0x77 := by decide

/-- A7: VF is left alone. -/
theorem test_or : let t := run 0x8121 (withRegs [(1, 0xF0), (2, 0x0F), (15, 9)])
    t.v[1] = 0xFF ∧ t.v[15] = 9 := by decide

/-- A8. -/
theorem test_and : let t := run 0x8122 (withRegs [(1, 0xF3), (2, 0x3C), (15, 9)])
    t.v[1] = 0x30 ∧ t.v[15] = 9 := by decide

/-- A9, A10. -/
theorem test_xor : let t := run 0x8123 (withRegs [(1, 0xFF), (2, 0x0F), (15, 9)])
    t.v[1] = 0xF0 ∧ t.v[15] = 9 ∧ (run 0x8113 (withRegs [(1, 0xAB)])).v[1] = 0 := by decide

/-- S4, A12. -/
theorem test_add_reg : Leaves (.addReg 1 2) (withRegs [(1, 0xFF), (2, 0x01)]) 1 0x00 1 ∧
    Leaves (.addReg 1 2) (withRegs [(1, 0xFF), (2, 0xFF)]) 1 0xFE 1 := by
  refine ⟨⟨_, rfl, ?_, ?_⟩, ⟨_, rfl, ?_, ?_⟩⟩ <;> rw [State.writeResultFlag, State.v_writeBoth] <;> decide

/-- A15: the old VF is the addend. -/
theorem test_add_reg_reads_first : Leaves (.addReg 1 15) (withRegs [(1, 0xFE), (15, 0x03)]) 1 0x01 1 := by
  refine ⟨_, rfl, ?_, ?_⟩ <;> rw [State.writeResultFlag, State.v_writeBoth] <;> decide

/-- S5, A16: equal operands give flag 0. -/
theorem test_sub : Leaves (.subReg 1 2) (withRegs [(1, 3), (2, 5)]) 1 0xFE 0 ∧
    Leaves (.subReg 1 2) (withRegs [(1, 7), (2, 7), (15, 9)]) 1 0 0 := by
  refine ⟨⟨_, rfl, ?_, ?_⟩, ⟨_, rfl, ?_, ?_⟩⟩ <;> rw [State.writeResultFlag, State.v_writeBoth] <;> decide

/-- A20, A22. -/
theorem test_subn : Leaves (.subnReg 1 2) (withRegs [(1, 3), (2, 5)]) 1 2 1 ∧
    Leaves (.subnReg 1 2) (withRegs [(1, 7), (2, 7), (15, 9)]) 1 0 0 := by
  refine ⟨⟨_, rfl, ?_, ?_⟩, ⟨_, rfl, ?_, ?_⟩⟩ <;> rw [State.writeResultFlag, State.v_writeBoth] <;> decide

/-- A27, A28. -/
theorem test_shr : Leaves (.shr 1) (withRegs [(1, 0xFF)]) 1 0x7F 1 ∧
    Leaves (.shr 1) (withRegs [(1, 0x80)]) 1 0x40 0 := by
  refine ⟨⟨_, rfl, ?_, ?_⟩, ⟨_, rfl, ?_, ?_⟩⟩ <;> rw [State.writeResultFlag, State.v_writeBoth] <;> decide

/-- A30, A33. -/
theorem test_shl : Leaves (.shl 1) (withRegs [(1, 0x81)]) 1 0x02 1 ∧
    Leaves (.shl 1) (withRegs [(1, 0x7F)]) 1 0xFE 0 := by
  refine ⟨⟨_, rfl, ?_, ?_⟩, ⟨_, rfl, ?_, ?_⟩⟩ <;> rw [State.writeResultFlag, State.v_writeBoth] <;> decide

/-- A39, A43: both values of VF_ORDER. -/
theorem test_vf_order : let s := withRegs [(15, 0xF0), (1, 0x20)]
    (s.writeBoth .flagLast 15 (addResult 0xF0 0x20) (addFlag 0xF0 0x20)).v[15] = 0x01 ∧
    (s.writeBoth .resultLast 15 (addResult 0xF0 0x20) (addFlag 0xF0 0x20)).v[15] = 0x10 ∧
    (s.writeBoth .resultLast 15 (shlResult 0x81) (shlFlag 0x81)).v[15] = 0x02 := by decide

/-- A35. -/
theorem test_rnd : (randomWith 0xB7 3 0x0F State.reset).v[3] = 0x07 := by decide

/-- M1. -/
theorem test_ld_i : (run 0xA2F0 State.reset).i = 0x02F0 := by decide

/-- M3: modulo 2^16, VF left alone. -/
theorem test_add_i : let t := run 0xF21E ((withRegs [(2, 2), (15, 7)]).setI 0xFFFF)
    t.i = 0x0001 ∧ t.v[15] = 7 ∧ t.fault = none := by decide

/-- S8, M6: the whole byte. -/
theorem test_ld_f : (run 0xF029 (withRegs [(0, 0x0A)])).i = 0x0032 ∧
    (run 0xF029 (withRegs [(0, 0x1A)])).i = 0x0082 := by decide

/-- M12: the last legal address. -/
theorem test_ld_b : let t := run 0xF033 ((withRegs [(0, 157)]).setI 0xFFD)
    t.mem.readBytes 0xFFD 3 = [1, 5, 7] ∧ t.i = 0xFFD ∧ t.fault = none := by decide

/-- M13: nothing is written. -/
theorem test_ld_b_fault : let t := run 0xF033 ((withRegs [(0, 157)]).setI 0xFFE)
    t.fault = some ⟨.memoryOutOfRange, 0x1000⟩ ∧ t.pc = 0x0200 ∧ t.mem.readBytes 0xFFE 2 = [0, 0] := by decide

/-- M15: `V[3]` is not copied. -/
theorem test_st_regs : let t := run 0xF255 ((withRegs [(0, 0x11), (1, 0x22), (2, 0x33), (3, 0x44)]).setI 0x300)
    t.mem.readBytes 0x300 4 = [0x11, 0x22, 0x33, 0] ∧ t.i = 0x300 := by decide

/-- M17. -/
theorem test_st_regs_fault : let t := run 0xF355 ((withRegs [(0, 1), (1, 2), (2, 3), (3, 4)]).setI 0xFFE)
    t.fault = some ⟨.memoryOutOfRange, 0x1000⟩ ∧ t.mem.readBytes 0xFFE 2 = [0, 0] := by decide

/-- M19. -/
theorem test_ld_regs : (run 0xF465 State.reset).v.toList.take 6 = [0xF0, 0x90, 0x90, 0x90, 0xF0, 0] := by decide

/-- M21. -/
theorem test_ld_regs_fault : let t := run 0xF165 ((withRegs [(0, 9), (1, 9)]).setI 0xFFF)
    t.fault = some ⟨.memoryOutOfRange, 0x1000⟩ ∧ t.v[0] = 9 ∧ t.v[1] = 9 := by decide

/-- G3: the start wraps, the columns are clipped. -/
theorem test_drw : let t := run 0xD121 (withMem 0x300 [0x81] ((withRegs [(1, 255), (2, 255)]).setI 0x300))
    Framebuffer.pixel t.fb 31 63 = true ∧ Framebuffer.pixel t.fb 31 6 = false ∧ t.v[15] = 0 := by decide

/-- G6: cell (5, 11) goes from 1 to 0. -/
theorem test_drw_collision :
    let t := run 0xD121 (withMem 0x300 [0xC0] (((withRegs [(1, 10), (2, 5)]).setI 0x300).setFb (lit 5 11)))
    Framebuffer.pixel t.fb 5 10 = true ∧ Framebuffer.pixel t.fb 5 11 = false ∧ t.v[15] = 1 := by decide

/-- K1: the value before this cycle's decay. -/
theorem test_ld_vx_dt : let t := run 0xF307 (State.reset.setDt 5)
    t.v[3] = 5 ∧ t.dt = 4 := by decide

/-- K3, K5. -/
theorem test_ld_dt : (run 0xF315 (withRegs [(3, 10)])).dt = 9 ∧
    (run 0xF315 ((withRegs [(3, 0)]).setDt 9)).dt = 0 := by decide

/-- K6. -/
theorem test_ld_st : (run 0xF318 (withRegs [(3, 2)])).st = 1 := by decide

/-- S10: keys 3 and 9 are down. -/
theorem test_ld_key : let t := run 0xF50A (State.reset.setKeys ((keyDown 9).set 3 true))
    t.v[5] = 3 ∧ t.pc = 0x0202 := by decide

/-- S10: no key is down. -/
theorem test_ld_key_waits : let t := run 0xF50A ((withRegs [(5, 0xEE)]).setDt 3)
    t.v[5] = 0xEE ∧ t.pc = 0x0200 ∧ t.dt = 2 := by decide

/-- T28, S11: a no-op word, and the decay of every cycle. -/
theorem test_no_op : let t := run 0xE49F (((withRegs [(4, 0xFF)]).setDt 1).setSt 0xFF)
    t.pc = 0x0202 ∧ t.fault = none ∧ t.dt = 0 ∧ t.st = 0xFE := by decide

/-- T7, T11: a fault in fetch. -/
theorem test_fetch_fault : (State.reset.setPc 0xFFF).cycle.fault = some ⟨.memoryOutOfRange, 0x1000⟩ ∧
    (State.reset.setPc 0x10FE).cycle.fault = some ⟨.memoryOutOfRange, 0x10FE⟩ := by decide

/-- T29: an odd `pc`. -/
theorem test_odd_pc : let t := (withMem 0x203 [0x6A, 0x42] (State.reset.setPc 0x203)).cycle
    t.v[10] = 0x42 ∧ t.pc = 0x0205 := by decide

/-- H1: load keeps everything else, FAULT among it, and the machine stays halted. -/
theorem test_load : let s := (State.reset.setDt 7).setFault (some ⟨.stackUnderflow, 0⟩)
    let t := (s.load [0x12, 0x00]).2
    t.mem.readBytes 0x200 2 = [0x12, 0] ∧ t.pc = 0x0200 ∧ t.cycle.dt = 7 ∧ t.cycle.pc = 0x0200 := by decide

/-! ### Witnesses: concrete states and operands that meet the hypotheses of each statement, clause by clause -/

/-- The reset state with the word `w` where the next cycle fetches. -/
abbrev at' (w : Nat) : State := State.reset.withFetchWord 16 w

/-- A halted state. -/
abbrev halted : State := State.reset.setFault (some ⟨.stackOverflow, 0⟩)

/-- The executions that the cycle statements speak of. -/
theorem witness_executes :
    (at' 0x00E0).Executes .cls ∧ (at' 0x00EE).Executes .ret ∧ (at' 0x1234).Executes (.jp 0x234) ∧
    (at' 0x2300).Executes (.call 0x300) ∧ (at' 0xA2F0).Executes (.ldI 0x2F0) ∧ (at' 0xF033).Executes (.ldB 0) ∧
    (at' 0xF155).Executes (.stRegs 1) ∧ (at' 0xD121).Executes (.drw 1 2 1) ∧ (at' 0xF307).Executes (.ldVxDt 3) ∧
    (at' 0xF315).Executes (.ldDt 3) ∧ (at' 0xF318).Executes (.ldSt 3) ∧ (at' 0xF50A).Executes (.ldKey 5) := by
  refine ⟨?_, ?_, ?_, ?_, ?_, ?_, ?_, ?_, ?_, ?_, ?_, ?_⟩ <;> exact ⟨rfl, by decide, by decide⟩

theorem witness_DecodeEncodeRoundTrip : Instr.wellFormed (.drw 1 2 9) = true := by decide

theorem witness_CanonicalWordsEncode : decode 0x512F = some (.seReg 1 2) ∧ canonicalWord 0x512F = false ∧
    decode 0x5120 = some (.seReg 1 2) ∧ canonicalWord 0x5120 = true := by decide

theorem witness_NoOpWordsOnlyAdvance : State.reset.Running ∧ State.reset.Fetchable ∧
    decode State.reset.wordAtPc = none := by decide

theorem witness_DecoderFollowsOpcodeMap :
    (∃ r ∈ opcodeTable, r.selects 0x8127 = true) ∧ decode 0x8127 = some (.subnReg 1 2) := by
  refine ⟨⟨opcodeTable[19], ?_, ?_⟩, ?_⟩ <;> first | decide | exact List.getElem_mem _

theorem witness_StepRunsDecoded : (at' 0x1234).Running ∧ (at' 0x1234).Fetchable ∧
    decode (at' 0x1234).wordAtPc = some (.jp 0x234) ∧ Instr.wellFormed (.jp 0x234) = true := by decide

theorem witness_FetchReadsTwoBytes : (State.reset.setPc 0xFFE).pc.toNat ≤ 0xFFE ∧
    (State.reset.setPc 0xFFF).pc.toNat = 0xFFF ∧ (State.reset.setPc 0xFFF).Running ∧
    0x1000 ≤ (State.reset.setPc 0x1000).pc.toNat ∧ (State.reset.setPc 0x1000).Running := by decide

theorem witness_HaltedUntilReset : halted.fault = some ⟨.stackOverflow, 0⟩ := by decide

theorem witness_FaultChangesOnlyTheLatch :
    (at' 0x00EE).Running ∧ ∃ t, step (at' 0x00EE) = .next t ∧ t.fault ≠ none :=
  ⟨rfl, _, rfl, by decide⟩

theorem witness_FaultsExactlyWhenDue : (at' 0x00EE).Running ∧ (at' 0x00EE).faultDue ≠ none ∧
    (at' 0x1234).Running ∧ (at' 0x1234).faultDue = none := by decide

/-- A cycle without a fault that sets a timer, one that does not, and one that faults. -/
theorem witness_TimersDecayOncePerCycle :
    (∃ t, (at' 0xF315).Running ∧ step (at' 0xF315) = .next t ∧ t.fault = none ∧ (at' 0xF315).Executes (.ldDt 3) ∧
      ¬ ∃ x, (at' 0xF315).Executes (.ldSt x)) ∧
    (∃ t, (at' 0xF318).Running ∧ step (at' 0xF318) = .next t ∧ t.fault = none ∧ (at' 0xF318).Executes (.ldSt 3) ∧
      ¬ ∃ x, (at' 0xF318).Executes (.ldDt x)) ∧
    (∃ t, (at' 0x00EE).Running ∧ step (at' 0x00EE) = .next t ∧ t.fault ≠ none) := by
  have d : decode (at' 0xF315).wordAtPc = some (.ldDt 3) := by decide
  have e : decode (at' 0xF318).wordAtPc = some (.ldSt 3) := by decide
  refine ⟨⟨_, rfl, rfl, rfl, ⟨rfl, by decide, d⟩, ?_⟩, ⟨_, rfl, rfl, rfl, ⟨rfl, by decide, e⟩, ?_⟩,
    ⟨_, rfl, rfl, by decide⟩⟩
  · rintro ⟨x, h⟩; exact absurd (d.symm.trans h.decodes) (by simp)
  · rintro ⟨x, h⟩; exact absurd (e.symm.trans h.decodes) (by simp)

theorem witness_PcMovesByTwo : (at' 0x1234).Running ∧
    ∃ t, step (at' 0x1234) = .next t ∧ t.fault = none ∧ t.pc ≠ (at' 0x1234).pc + 2 :=
  ⟨rfl, _, rfl, rfl, by decide⟩

theorem witness_FlagRegisterWriters : ∃ t, step (at' 0x6F07) = .next t ∧ t.v[15] ≠ (at' 0x6F07).v[15] :=
  ⟨_, rfl, by decide⟩

theorem witness_IndexWriters : ∃ t, step (at' 0xA2F0) = .next t ∧ t.i ≠ (at' 0xA2F0).i := ⟨_, rfl, by decide⟩

theorem witness_StackWriters :
    (∃ t, step (at' 0x2300) = .next t ∧ t.stack ≠ (at' 0x2300).stack ∧ t.sp ≠ (at' 0x2300).sp) ∧
    ∃ t, step ((at' 0x00EE).setSp 16) = .next t ∧ t.sp ≠ ((at' 0x00EE).setSp 16).sp :=
  ⟨⟨_, rfl, by decide, by decide⟩, _, rfl, by decide⟩

/-- A BCD store of 255 at 0x300, and a Register dump of `V[0]` = 0x5A to 0xFFF. -/
theorem witness_MemoryWriters :
    (let s := ((withRegs [(0, 255)]).setI 0x300).withFetchWord 16 0xF033
     ∃ t, step s = .next t ∧ t.mem.read 0x302 ≠ s.mem.read 0x302) ∧
    (let s := ((withRegs [(0, 0x5A)]).setI 0xFFF).withFetchWord 16 0xF055
     ∃ t, step s = .next t ∧ t.mem.read 0xFFF ≠ s.mem.read 0xFFF) :=
  ⟨⟨_, rfl, by decide⟩, _, rfl, by decide⟩

theorem witness_FramebufferWriters : let s := (at' 0x00E0).setFb (lit 3 7)
    ∃ t, step s = .next t ∧ t.fb ≠ s.fb :=
  ⟨_, rfl, fun h => absurd (congrArg (fun fb => Framebuffer.pixel fb 3 7) h) (by decide)⟩

theorem witness_KeysNeverWritten : ∃ t, step (at' 0xF50A) = .next t := ⟨_, rfl⟩

theorem witness_KeysReadByKeyInstructionsOnly : (∃ t, step (at' 0x1234) = .next t) ∧
    ¬ ∃ x, (at' 0x1234).Executes (.skp x) ∨ (at' 0x1234).Executes (.sknp x) ∨ (at' 0x1234).Executes (.ldKey x) := by
  have d : decode (at' 0x1234).wordAtPc = some (.jp 0x234) := by decide
  refine ⟨⟨_, rfl⟩, ?_⟩
  rintro ⟨x, h | h | h⟩ <;> exact absurd (d.symm.trans h.decodes) (by simp)

theorem witness_SoundTimerHasNoEffect : ∃ t, step (at' 0xF318) = .next t := ⟨_, rfl⟩

/-- The reset state meets the invariant (its own statement says so for every GLYPH_ROM). -/
theorem reset_inv : State.reset.Inv :=
  ⟨by decide, by decide, by decide, fun f h => absurd h (by simp [State.reset, State.resetWith])⟩

theorem witness_StepKeepsInvariant : State.reset.Inv ∧ ∃ t, step State.reset = .next t := ⟨reset_inv, _, rfl⟩

theorem witness_HostRunsKeepInvariant : State.reset.Inv := reset_inv

theorem witness_RangeCheckReportsLowest : rangeFault 0xFFE 3 = some 0x1000 ∧ rangeFault 0xFFD 3 = none ∧
    rangeFault 0x1234 1 = some 0x1234 ∧ rangeFault 0xFFFF 0 = none := by decide

/-- Storing 7 and then the reset contents leaves the memory it started from. -/
theorem witness_MemoryFormIsCanonical : let m := State.reset.mem
    let m' := (m.write 0x300 7).write 0x300 0
    m.wf ∧ m'.wf ∧ m.glyphs = m'.glyphs ∧ ∀ a, m.read a = m'.read a := by
  refine ⟨by decide, by decide, rfl, fun a => ?_⟩
  have : (State.reset.mem.write 0x300 7).write 0x300 0 = State.reset.mem := by decide
  rw [this]

/-- A dump of `V[0]`, `V[1]` to 0xFFE, 0xFFF, and a state that fetches there. -/
theorem witness_FetchSeesStoredBytes : let s := State.reset.setI 0xFFE
    0 + 1 ≤ (1 : RegIdx).val ∧ s.i.toNat + (1 : RegIdx).val ≤ 0xFFF ∧
    ∃ t, exec (.stRegs 1) s = .next t ∧ (t.setPc 0xFFE).mem = t.mem ∧ (t.setPc 0xFFE).pc.toNat = s.i.toNat + 0 :=
  ⟨by decide, by decide, _, rfl, rfl, by decide⟩

theorem witness_EntryPointIsFixed : (State.reset.load [0x12, 0x00]).1 = .ok := by decide

/-- The longest sequence that load accepts, and one byte more. -/
theorem witness_LoadWritesProgram : 3583 < (List.replicate 3584 (0xAB : Byte)).length ∧
    (List.replicate 3583 (0xAB : Byte)).length ≤ 3583 := by
  simp only [List.length_replicate]; decide

theorem witness_HostReadsState : halted.fault = some ⟨.stackOverflow, 0⟩ ∧ State.reset.Running := by decide

theorem witness_EndedRunStays : (at' 0x1200).EndedNormally := ⟨rfl, by decide, by decide⟩

theorem witness_RetPopsOrUnderflows : 0 < (State.reset.setSp 16).sp.val ∧ 0 < (State.reset.setSp 1).sp.val ∧
    State.reset.sp.val = 0 ∧ State.reset.Running := by decide

theorem witness_CallPushesOrOverflows : (State.reset.setSp 15).sp.val < 16 ∧ State.reset.sp.val < 16 ∧
    (State.reset.setSp 16).sp.val = 16 ∧ (State.reset.setSp 16).Running := by decide

theorem witness_ReturnResumesAfterCall : (State.reset.setSp 15).sp.val < 16 ∧
    ∃ t, exec (.call 0x300) (State.reset.setSp 15) = .next t ∧ (State.reset.setSp t.sp).sp = t.sp ∧
      ((State.reset.setSp t.sp).setStack t.stack).stack = t.stack :=
  ⟨by decide, _, rfl, rfl, rfl⟩

theorem witness_KeySkipsTestLevel : ((withRegs [(4, 15)]).v[(4 : RegIdx)]).toNat < 16 ∧
    15 < ((withRegs [(4, 16)]).v[(4 : RegIdx)]).toNat ∧ (withRegs [(4, 16)]).Running ∧
    (Instr.skp 4 = .skp 4 ∨ Instr.skp 4 = .sknp 4) := by decide

theorem witness_BcdStoresDigits : (State.reset.setI 0xFFD).i.toNat ≤ 0xFFD ∧
    0xFFD < (State.reset.setI 0xFFE).i.toNat ∧ (State.reset.setI 0xFFE).Running := by decide

theorem witness_DumpCopiesRegisters : (State.reset.setI 0xFF0).i.toNat + (15 : RegIdx).val ≤ 0xFFF ∧
    0xFFF < (State.reset.setI 0xFF1).i.toNat + (15 : RegIdx).val ∧ (State.reset.setI 0xFF1).Running := by decide

theorem witness_LoadCopiesMemory : (State.reset.setI 0xFFF).i.toNat + (0 : RegIdx).val ≤ 0xFFF ∧
    0xFFF < (State.reset.setI 0xFFF).i.toNat + (1 : RegIdx).val ∧ (State.reset.setI 0xFFF).Running := by decide

/-- A draw of no rows, a draw up to the last address and one past it; a screen with a cell that the sprite hits and one
where it hits none. -/
theorem witness_DrawXorsClippedSprite :
    (0 : Fin 16).val = 0 ∧ (State.reset.setI 0xFF8).i.toNat + (8 : Fin 16).val - 1 ≤ 0xFFF ∧
    ((9 : Fin 16).val ≠ 0 ∧ 0xFFF < (State.reset.setI 0xFF8).i.toNat + (9 : Fin 16).val - 1 ∧
      (State.reset.setI 0xFF8).Running) ∧
    (∃ r c, Framebuffer.pixel (State.reset.setFb (lit 0 0)).fb r c = true ∧
      (State.reset.setFb (lit 0 0)).spriteBit 1 2 5 r c = true) ∧
    ¬ ∃ r c, Framebuffer.pixel State.reset.fb r c = true ∧ State.reset.spriteBit 1 2 5 r c = true := by
  refine ⟨by decide, by decide, by decide, ⟨0, 0, by decide, by decide⟩, ?_⟩
  rintro ⟨r, c, h, -⟩
  simp [State.reset, State.resetWith, Framebuffer.pixel, resetPixel] at h

/-- Glyph 0 drawn at the top left of an empty screen, and a second state with the screen, the registers, `I` and the
memory it leaves. -/
theorem witness_DrawTwiceRestores : (1 : RegIdx) ≠ 15 ∧ (2 : RegIdx) ≠ 15 ∧
    ((5 : Fin 16).val = 0 ∨ State.reset.i.toNat + (5 : Fin 16).val - 1 ≤ 0xFFF) ∧
    ∃ t, exec (.drw 1 2 5) State.reset = .next t ∧ t.v[15] = 0 ∧ t.fb ≠ State.reset.fb ∧
      (t.setPc 0x300).fb = t.fb ∧ (t.setPc 0x300).v = t.v ∧ (t.setPc 0x300).i = t.i ∧ (t.setPc 0x300).mem = t.mem :=
  ⟨by decide, by decide, by decide, _, rfl, by decide,
    fun h => absurd (congrArg (fun fb => Framebuffer.pixel fb 0 0) h) (by decide), rfl, rfl, rfl, rfl⟩

theorem witness_RandomIsMaskedDraw : (0x0F : Byte).getLsbD 7 = false := by decide

theorem witness_TimerAccess : (at' 0xF307).Executes (.ldVxDt 3) ∧ (at' 0xF318).Executes (.ldSt 3) := by
  refine ⟨?_, ?_⟩ <;> exact ⟨rfl, by decide, by decide⟩

/-- A Set-delay, then a no-op cycle: two cycles later. -/
theorem witness_SetDelayCountsDown : (at' 0xF315).Executes (.ldDt 3) ∧ 1 ≤ 2 ∧ (State.cycle^[2] (at' 0xF315)).Running ∧
    ∀ j, 1 ≤ j → j < 2 → ¬ ∃ y, (State.cycle^[j] (at' 0xF315)).Executes (.ldDt y) := by
  refine ⟨⟨rfl, by decide, by decide⟩, by decide, by decide, ?_⟩
  rintro j h1 h2 ⟨y, h⟩
  obtain rfl : j = 1 := by omega
  have d : decode (State.cycle^[1] (at' 0xF315)).wordAtPc = none := by decide
  exact absurd (d.symm.trans h.decodes) (by simp)

theorem witness_ResetLeavesTable (glyphs : Vector Byte 80) : State.resetWith glyphs = State.resetWith glyphs ∨
    ∃ s₀ : State, s₀.mem.glyphs = glyphs ∧ State.resetWith glyphs = s₀.hostReset := .inl rfl

theorem witness_BlockOnKey :
    (let s := State.reset.setKeys (keyDown 15)
     s.keys[(15 : Fin 16)] = true ∧ ∀ j : Fin 16, j < 15 → s.keys[j] = false) ∧
    ∀ k : Fin 16, State.reset.keys[k] = false := by decide

theorem witness_WaitingChangesOnlyTimers : (at' 0xF50A).Executes (.ldKey 5) ∧
    ∀ k : Fin 16, (at' 0xF50A).keys[k] = false := ⟨⟨rfl, by decide, by decide⟩, by decide⟩

end Sys2Proof.Tests
end

section
/-! PROOFS. The no-op words (30_encoding.md R81), fetch (R70), and the two cycles that execute no operation. -/

namespace Sys2Proof

/-! ### The fields of a word as numbers (R74) -/

theorem famOf_toNat (w : Word) : (famOf w).toNat = w.toNat / 0x1000 := by
  have hw := w.isLt
  simp only [famOf, BitVec.extractLsb'_toNat, Nat.shiftRight_eq_div_pow]
  omega

theorem kkOf_toNat (w : Word) : (kkOf w).toNat = w.toNat % 0x100 := by
  simp [kkOf, BitVec.extractLsb'_toNat]

theorem nOf_val (w : Word) : (nOf w).val = w.toNat % 0x10 := by
  simp [nOf]

/-- A word's number from its two bytes, the first one high (R54). -/
theorem wordOfBytes_toNat (hi lo : Byte) : (wordOfBytes hi lo).toNat = hi.toNat * 256 + lo.toNat := by
  rw [wordOfBytes, BitVec.toNat_append, ← Nat.shiftLeft_add_eq_or_of_lt lo.isLt, Nat.shiftLeft_eq]

/-! ### The words that decode to no operation (R81), family by family -/

theorem decodeFam0_eq_none_iff (w : Word) : decodeFam0 w = none ↔ w.toNat % 0x100 ∉ [0xE0, 0xEE] := by
  rw [decodeFam0, kkOf_toNat]
  split <;> simp_all

theorem decodeFam8_eq_none_iff (w : Word) :
    decodeFam8 w = none ↔ w.toNat % 0x10 ∈ [0x8, 0x9, 0xA, 0xB, 0xC, 0xD, 0xF] := by
  rw [decodeFam8, nOf_val]
  split
  case h_10 =>
    simp only [imp_false, List.mem_cons, List.not_mem_nil, true_iff] at *
    omega
  all_goals simp_all

theorem decodeFamE_eq_none_iff (w : Word) : decodeFamE w = none ↔ w.toNat % 0x100 ∉ [0x9E, 0xA1] := by
  rw [decodeFamE, kkOf_toNat]
  split <;> simp_all

theorem decodeFamF_eq_none_iff (w : Word) :
    decodeFamF w = none ↔ w.toNat % 0x100 ∉ [0x07, 0x0A, 0x15, 0x18, 0x1E, 0x29, 0x33, 0x55, 0x65] := by
  rw [decodeFamF, kkOf_toNat]
  split <;> simp_all

/-- Only families 0, 8, E and F hold no-op words, each its own (R75, R81). -/
theorem decode_eq_none_iff (w : Word) : decode w = none ↔
    (w.toNat / 0x1000 = 0x0 ∧ decodeFam0 w = none) ∨ (w.toNat / 0x1000 = 0x8 ∧ decodeFam8 w = none) ∨
    (w.toNat / 0x1000 = 0xE ∧ decodeFamE w = none) ∨ (w.toNat / 0x1000 = 0xF ∧ decodeFamF w = none) := by
  rw [decode, famOf_toNat]
  split
  case h_16 =>
    have hF : w.toNat / 0x1000 = 0xF := by
      have hw := w.isLt
      simp only [imp_false] at *
      omega
    simp [hF]
  all_goals next hfam => simp [hfam]

end Sys2Proof

namespace Sys2Proof.Machine

/-! ### The cycles without an operation (R70, R72, R81) -/

/-- The cycle of a no-op word (R81). -/
theorem step_noOperation {s : State} (hr : s.Running) (hf : s.Fetchable) (hd : decode s.wordAtPc = none) :
    step s = .next s.advancePc.decay := by
  obtain ⟨f, hfault, -⟩ | ⟨-, hnot, -⟩ | ⟨-, -, -, hstep⟩ | ⟨i, hexec, -⟩ := step_cases s
  · simp [hr] at hfault
  · exact absurd hf hnot
  · exact hstep
  · simp [hexec.decodes] at hd

/-- The cycle of a running machine whose fetch fails (R70, R183). -/
theorem step_fetchFault {s : State} (hr : s.Running) (hf : ¬ s.Fetchable) :
    step s = .next (s.setFault (some ⟨.memoryOutOfRange, max s.pc.toNat 0x1000⟩)) := by
  obtain ⟨f, hfault, -⟩ | ⟨-, -, hstep⟩ | ⟨-, hfetch, -⟩ | ⟨i, hexec, -⟩ := step_cases s
  · simp [hr] at hfault
  · rw [hstep, State.fetchFault, State.latchFault_eq _ _ hr]
  · exact absurd hfetch hf
  · exact absurd hexec.fetchable hf

/-- The pc advance and the decay touch `pc` and the timers alone. -/
theorem changesOnly_advancePc_decay (s : State) :
    ChangesOnly (fun p => p = .pc ∨ p = .dt ∨ p = .st) s s.advancePc.decay := by
  intro p hp
  cases p
  case pc | dt | st => simp at hp
  all_goals rfl

end Sys2Proof.Machine
end

section
open Sys2Proof Sys2Proof.Machine

/-- Settles O3: the list of R81 family by family, then the cycle as the pc advance and the decay. -/
theorem noOpWordsOnlyAdvance : Obligations.NoOpWordsOnlyAdvance := by
  refine ⟨fun w => ?_, fun s hr hf hd => ?_⟩
  · rw [decode_eq_none_iff, decodeFam0_eq_none_iff, decodeFam8_eq_none_iff, decodeFamE_eq_none_iff,
      decodeFamF_eq_none_iff]
  · exact ⟨s.advancePc.decay, step_noOperation hr hf hd, rfl, decayTimer_toNat s.dt, decayTimer_toNat s.st,
      changesOnly_advancePc_decay s⟩

/-- Settles O8: `State.fetch_ok` where both bytes exist; elsewhere the lowest missing address is the larger of `pc` and
0x1000, which the cycle latches. -/
theorem fetchReadsTwoBytes : Obligations.FetchReadsTwoBytes := by
  intro s
  refine ⟨fun h => ⟨_, s.fetch_ok h, wordOfBytes_toNat _ _⟩, fun h => ?_, fun h => ?_⟩
  · have hnot : ¬ s.Fetchable := by simp only [State.Fetchable]; omega
    have hmax : max s.pc.toNat 0x1000 = 0x1000 := by omega
    rw [s.fetch_error (Nat.lt_of_not_le hnot), hmax]
    exact ⟨rfl, fun hr => hmax ▸ step_fetchFault hr hnot⟩
  · have hnot : ¬ s.Fetchable := by simp only [State.Fetchable]; omega
    have hmax : max s.pc.toNat 0x1000 = s.pc.toNat := by omega
    rw [s.fetch_error (Nat.lt_of_not_le hnot), hmax]
    exact ⟨rfl, fun hr => by rw [step_fetchFault hr hnot, hmax]⟩

end

section
/-! PROOFS. Frames, update by update, and control flow (40_control_flow.md R100 to R110). -/

namespace Sys2Proof.Machine

/-! ### Frames: an update of a piece that may change keeps a frame -/

section
variable {P : Piece → Prop} {s t : State}

theorem ChangesOnly.refl (s : State) : ChangesOnly P s s := by
  intro p _
  cases p <;> rfl

theorem ChangesOnly.setPc (h : ChangesOnly P s t) (hp : P .pc) (a : Word) : ChangesOnly P s (t.setPc a) := by
  intro p hnot
  cases p
  case pc => exact absurd hp hnot
  all_goals exact h _ hnot

theorem ChangesOnly.setSp (h : ChangesOnly P s t) (hp : P .sp) (a : Fin 17) : ChangesOnly P s (t.setSp a) := by
  intro p hnot
  cases p
  case sp => exact absurd hp hnot
  all_goals exact h _ hnot

theorem ChangesOnly.setFault (h : ChangesOnly P s t) (hp : P .fault) (a : Option FaultRecord) :
    ChangesOnly P s (t.setFault a) := by
  intro p hnot
  cases p
  case fault => exact absurd hp hnot
  all_goals exact h _ hnot

theorem ChangesOnly.setFb (h : ChangesOnly P s t) (hp : ∀ r c, P (.pixel r c)) (a : Framebuffer) :
    ChangesOnly P s (t.setFb a) := by
  intro p hnot
  cases p
  case pixel r c => exact absurd (hp r c) hnot
  all_goals exact h _ hnot

theorem ChangesOnly.setSlot (h : ChangesOnly P s t) (k : Fin 16) (hp : P (.slot k)) (w : Word) :
    ChangesOnly P s (t.setStack (t.stack.set k.val w)) := by
  intro p hnot
  cases p
  case slot j =>
    have hkj : k.val ≠ j.val := fun e => hnot (Fin.ext e ▸ hp)
    exact (Vector.getElem_set_ne k.isLt j.isLt hkj).trans (h _ hnot)
  all_goals exact h _ hnot

end

/-- A `pc` update changes `pc` alone. -/
theorem State.setPc_frame (s : State) (a : Word) : ChangesOnly (fun p => p = .pc) s (s.setPc a) :=
  ChangesOnly.setPc (P := fun p => p = .pc) (ChangesOnly.refl s) rfl a

/-- A fault raised by an instruction: FAULT takes the record, `pc` goes back to the instruction, nothing else changes
(R183). -/
theorem State.raise_spec {s : State} (hr : s.Running) (f : FaultRecord) :
    (s.raise f).fault = some f ∧ (s.raise f).pc = s.pc - 2 ∧
      ChangesOnly (fun p => p = .pc ∨ p = .fault) s (s.raise f) := by
  rw [s.raise_eq f hr]
  exact ⟨rfl, rfl, ((ChangesOnly.refl s).setPc (.inl rfl) _).setFault (.inr rfl) _⟩

/-- A skip on a condition (40_control_flow.md section 6). -/
theorem State.skipIf_spec (s : State) (c : Bool) :
    (s.skipIf c).pc = (if c then s.pc + 2 else s.pc) ∧ ChangesOnly (fun p => p = .pc) s (s.skipIf c) := by
  rw [s.skipIf_eq c]
  exact ⟨rfl, s.setPc_frame _⟩

/-- A skip on the opposite condition. -/
theorem State.skipIf_not_spec (s : State) (c : Bool) :
    (s.skipIf !c).pc = (if c then s.pc else s.pc + 2) ∧ ChangesOnly (fun p => p = .pc) s (s.skipIf !c) := by
  refine ⟨(s.skipIf_spec !c).1.trans ?_, (s.skipIf_spec !c).2⟩
  cases c <;> rfl

/-! ### Key indices (R109, R110) -/

theorem State.keyOf_some {s : State} {x : RegIdx} (h : (s.v[x]).toNat < 16) :
    s.keyOf x = some s.keys[(s.v[x]).toNat] :=
  Vector.getElem?_eq_getElem h

theorem State.keyOf_none {s : State} {x : RegIdx} (h : 15 < (s.v[x]).toNat) : s.keyOf x = none :=
  Vector.getElem?_eq_none h

/-! ### What the operations that can fault answer (R101, R103, R109, R110), case by case -/

theorem exec_skp_key {s : State} {x : RegIdx} (h : (s.v[x]).toNat < 16) :
    exec (.skp x) s = .next (s.skipIf s.keys[(s.v[x]).toNat]) := by
  simp only [exec, execSkp, State.keyOf_some h]

theorem exec_sknp_key {s : State} {x : RegIdx} (h : (s.v[x]).toNat < 16) :
    exec (.sknp x) s = .next (s.skipIf !s.keys[(s.v[x]).toNat]) := by
  simp only [exec, execSknp, State.keyOf_some h]

theorem exec_skp_noKey {s : State} {x : RegIdx} (h : 15 < (s.v[x]).toNat) :
    exec (.skp x) s = .next (s.raise ⟨.keyIndexOutOfRange, (s.v[x]).toNat⟩) := by
  simp only [exec, execSkp, State.keyOf_none h, State.raiseKey]

theorem exec_sknp_noKey {s : State} {x : RegIdx} (h : 15 < (s.v[x]).toNat) :
    exec (.sknp x) s = .next (s.raise ⟨.keyIndexOutOfRange, (s.v[x]).toNat⟩) := by
  simp only [exec, execSknp, State.keyOf_none h, State.raiseKey]

theorem exec_ret_some {s : State} (h : 0 < s.sp.val) :
    exec .ret s = .next ((s.setSp ⟨s.sp.val - 1, by omega⟩).setPc (s.stack[s.sp.val - 1]'(by omega))) :=
  congrArg _ (s.popToPc_some (Nat.ne_of_gt h))

theorem exec_ret_empty {s : State} (h : s.sp.val = 0) : exec .ret s = .next (s.raise ⟨.stackUnderflow, 0⟩) :=
  congrArg _ (s.popToPc_empty h)

theorem exec_call_room {s : State} (nnn : Addr12) (h : s.sp.val < 16) :
    exec (.call nnn) s = .next
      (((s.setStack (s.stack.set s.sp.val s.pc)).setSp ⟨s.sp.val + 1, by omega⟩).setPc (absolute nnn)) :=
  congrArg _ (s.pushAndJump_room _ h)

theorem exec_call_full {s : State} (nnn : Addr12) (h : s.sp.val = 16) :
    exec (.call nnn) s = .next (s.raise ⟨.stackOverflow, 0⟩) :=
  congrArg _ (s.pushAndJump_full _ h)

/-! ### Jump-with-offset's address -/

/-- Jump-with-offset's target is an exact sum: at most 0xFFF + 0xFF, so 16 bits hold it (R104). -/
theorem State.offsetAddress_toNat (s : State) (nnn : Addr12) :
    (s.offsetAddress nnn).toNat = nnn.toNat + (s.v[0]).toNat := by
  have hnnn := nnn.isLt
  have hv := (s.v[0]).isLt
  have hread : ((s.readReg 0).zeroExtend 16).toNat = (s.v[0]).toNat :=
    BitVec.toNat_setWidth_of_le (by decide)
  rw [State.offsetAddress, BitVec.toNat_add, absolute_toNat, hread]
  omega

end Sys2Proof.Machine
end

section
open Sys2Proof Sys2Proof.Machine

/-- Settles O35: a stack with a return address pops it, an empty one raises. -/
theorem retPopsOrUnderflows : Obligations.RetPopsOrUnderflows := by
  intro s
  refine ⟨fun h => ⟨_, exec_ret_some h, rfl, rfl, ?_⟩, fun h hr => ⟨_, exec_ret_empty h, State.raise_spec hr _⟩⟩
  exact ((ChangesOnly.refl s).setSp (.inr rfl) _).setPc (.inl rfl) _

/-- Settles O37: with room the advanced `pc` goes to the slot at SP, a full stack raises. -/
theorem callPushesOrOverflows : Obligations.CallPushesOrOverflows := by
  intro s nnn
  refine ⟨fun h => ⟨_, exec_call_room nnn h, Vector.getElem_set_self h, rfl, absolute_toNat nnn, ?_⟩,
    fun h hr => ⟨_, exec_call_full nnn h, State.raise_spec hr _⟩⟩
  exact (((ChangesOnly.refl s).setSlot ⟨s.sp.val, h⟩ (.inr (.inr rfl)) _).setSp
    (.inr (.inl rfl)) _).setPc (.inl rfl) _

/-- Settles O40: a key index skips on the key's level, an index above 15 raises. -/
theorem keySkipsTestLevel : Obligations.KeySkipsTestLevel := by
  intro s x
  refine ⟨fun h => ⟨⟨_, exec_skp_key h, s.skipIf_spec _⟩, ⟨_, exec_sknp_key h, s.skipIf_not_spec _⟩⟩, ?_⟩
  rintro h hr i (rfl | rfl)
  · exact ⟨_, exec_skp_noKey h, State.raise_spec hr _⟩
  · exact ⟨_, exec_sknp_noKey h, State.raise_spec hr _⟩

/-- Settles O34: a framebuffer of false cells, and the frame of a framebuffer update. -/
theorem clsClearsScreen : Obligations.ClsClearsScreen := by
  intro s
  refine ⟨_, rfl, fun r c => ?_, (ChangesOnly.refl s).setFb (fun r c => ⟨r, c, rfl⟩) _⟩
  simp [Framebuffer.pixel]

/-- Settles O36: both jumps set `pc` alone, to an address that 16 bits hold exactly. -/
theorem jumpsSetPc : Obligations.JumpsSetPc := by
  intro s nnn
  exact ⟨⟨_, rfl, absolute_toNat nnn, s.setPc_frame _⟩, ⟨_, rfl, s.offsetAddress_toNat nnn, s.setPc_frame _⟩⟩

/-- Settles O39: each compare is a skip on the equality of two bytes or on its negation. -/
theorem compareSkips : Obligations.CompareSkips := by
  intro s x y kk
  have hskip (a b : Byte) := s.skipIf_spec (a == b)
  have hskipNot (a b : Byte) := s.skipIf_not_spec (a == b)
  simp only [beq_iff_eq] at hskip hskipNot
  exact ⟨⟨_, rfl, hskip _ _⟩, ⟨_, rfl, hskipNot _ _⟩, ⟨_, rfl, hskip _ _⟩, ⟨_, rfl, hskipNot _ _⟩⟩

end

section
/-! PROOFS. Register writes with their frames, and register and arithmetic operations (41_register_arithmetic.md R120 to
R130). -/

namespace Sys2Proof.Machine

/-! ### One register written -/

theorem ChangesOnly.writeReg {P : Piece → Prop} {s t : State} (h : ChangesOnly P s t) {x : RegIdx} (hp : P (.reg x))
    (b : Byte) : ChangesOnly P s (t.writeReg x b) := by
  intro p hnot
  cases p
  case reg r =>
    have hxr : x ≠ r := fun e => hnot (e ▸ hp)
    exact (t.v_writeReg x r b).trans ((if_neg hxr).trans (h _ hnot))
  all_goals exact h _ hnot

theorem State.v_writeReg_self (s : State) (x : RegIdx) (b : Byte) : (s.writeReg x b).v[x] = b :=
  (s.v_writeReg x x b).trans (if_pos rfl)

/-- A register write changes that register alone, VF included. -/
theorem State.writeReg_frame (s : State) (x : RegIdx) (b : Byte) :
    ChangesOnly (fun p => p = .reg x) s (s.writeReg x b) :=
  ChangesOnly.writeReg (P := fun p => p = .reg x) (ChangesOnly.refl s) rfl b

/-! ### A result and a flag written together (R37) -/

theorem State.writeBoth_frame (s : State) (o : VfOrder) (x : RegIdx) (res : Byte) (f : Bool) :
    ChangesOnly (fun p => p = .reg x ∨ p = .reg 15) s (s.writeBoth o x res f) := by
  cases o
  case flagLast => exact ((ChangesOnly.refl s).writeReg (.inl rfl) res).writeReg (.inr rfl) (flagByte f)
  case resultLast => exact ((ChangesOnly.refl s).writeReg (.inr rfl) (flagByte f)).writeReg (.inl rfl) res

/-- At x = 15 both writes collide and the later one stands. -/
theorem State.v_writeBoth_collide (s : State) (o : VfOrder) (res : Byte) (f : Bool) :
    (s.writeBoth o 15 res f).v[15] = (match o with | .flagLast => flagByte f | .resultLast => res) := by
  cases o
  case flagLast => exact State.v_writeReg_self _ _ _
  case resultLast => exact State.v_writeReg_self _ _ _

/-- Elsewhere the order does not matter: the result in `V[x]`, the flag in `V[15]`. -/
theorem State.v_writeBoth_apart (s : State) (o : VfOrder) {x : RegIdx} (hx : x ≠ 15) (res : Byte) (f : Bool) :
    (s.writeBoth o x res f).v[x] = res ∧ (s.writeBoth o x res f).v[15] = flagByte f := by
  have hflag := s.v_writeBoth o x flagReg res f
  have hres := s.v_writeBoth o x x res f
  simp only [hx, flagReg, and_true, if_false, if_true] at hflag hres
  exact ⟨hres, hflag⟩

/-- Every flagged operation: its result and its flag as numbers are what it leaves, in the registers it names alone. -/
theorem State.writeResultFlag_spec (s : State) (x : RegIdx) {res : Byte} {f : Bool} {r c : Nat}
    (hres : res.toNat = r) (hflag : (flagByte f).toNat = c) :
    WritesBoth (s.writeResultFlag x res f) x r c ∧
      ChangesOnly (fun p => p = .reg x ∨ p = .reg 15) s (s.writeResultFlag x res f) := by
  subst hres hflag
  refine ⟨?_, s.writeBoth_frame _ x res f⟩
  unfold WritesBoth
  split
  · next hx =>
    subst hx
    rw [State.writeResultFlag, State.v_writeBoth_collide]
    cases Config.vfOrder <;> rfl
  · next hx =>
    obtain ⟨hv, hvf⟩ := s.v_writeBoth_apart Config.vfOrder hx res f
    exact ⟨congrArg BitVec.toNat hv, congrArg BitVec.toNat hvf⟩

/-! ### Results and flags in the statements' form -/

theorem addFlag_toNat (a b : Byte) :
    (flagByte (addFlag a b)).toNat = if 255 < a.toNat + b.toNat then 1 else 0 := by
  simp only [flagByte_toNat, addFlag_iff]

theorem subFlag_toNat (a b : Byte) : (flagByte (subFlag a b)).toNat = if b.toNat < a.toNat then 1 else 0 := by
  simp only [flagByte_toNat, subFlag_iff]

/-- The difference modulo 256 as the integers have it. -/
theorem subResult_toNat_int (a b : Byte) : (subResult a b).toNat = (((a.toNat : Int) - b.toNat) % 256).toNat := by
  have hb := b.isLt
  rw [subResult_toNat]
  omega

end Sys2Proof.Machine
end

section
open Sys2Proof Sys2Proof.Machine

/-- Settles O44: the low 8 bits of the sum and the carry, written in the order of R37. -/
theorem addWithCarry : Obligations.AddWithCarry := by
  intro s x y
  exact ⟨_, rfl, s.writeResultFlag_spec x (addResult_toNat _ _) (addFlag_toNat _ _)⟩

/-- Settles O45: the difference modulo 256 and the strict comparison, written in the order of R37. -/
theorem subtractFlagsStrictly : Obligations.SubtractFlagsStrictly := by
  intro s x y
  exact ⟨_, rfl, s.writeResultFlag_spec x (subResult_toNat_int _ _) (subFlag_toNat _ _)⟩

/-- Settles O46: Subtract's result and flag with the operands exchanged, the destination still `V[x]`. -/
theorem reverseSubtract : Obligations.ReverseSubtract := by
  intro s x y
  exact ⟨_, rfl, s.writeResultFlag_spec x (subResult_toNat_int _ _) (subFlag_toNat _ _)⟩

/-- Settles O47: each shift's result and the bit shifted out, both of `V[x]` alone. -/
theorem shiftsByOne : Obligations.ShiftsByOne := by
  intro s x
  exact ⟨⟨_, rfl, s.writeResultFlag_spec x (shrResult_toNat _) (shrFlag_toNat _)⟩,
    ⟨_, rfl, s.writeResultFlag_spec x (shlResult_toNat _) (shlFlag_toNat _)⟩⟩

/-- Settles O41: both loads are one register write. -/
theorem registerLoads : Obligations.RegisterLoads := by
  intro s x y kk
  exact ⟨⟨_, rfl, s.v_writeReg_self x _, s.writeReg_frame x _⟩, ⟨_, rfl, s.v_writeReg_self x _, s.writeReg_frame x _⟩⟩

/-- Settles O42: one register write of a byte sum, which wraps. -/
theorem addImmediateWraps : Obligations.AddImmediateWraps := by
  intro s x kk
  refine ⟨_, rfl, ?_, s.writeReg_frame x _⟩
  rw [State.v_writeReg_self, BitVec.toNat_add]

/-- Settles O43: one register write of a bitwise combination, read bit by bit. -/
theorem logicIsBitwise : Obligations.LogicIsBitwise := by
  intro s x y
  refine ⟨⟨_, rfl, fun k => ?_, s.writeReg_frame x _⟩, ⟨_, rfl, fun k => ?_, s.writeReg_frame x _⟩,
    ⟨_, rfl, fun k => ?_, s.writeReg_frame x _⟩⟩
  · rw [State.v_writeReg_self, BitVec.getLsbD_or]
  · rw [State.v_writeReg_self, BitVec.getLsbD_and]
  · rw [State.v_writeReg_self, BitVec.getLsbD_xor]

end

section
/-! PROOFS. Index updates, multi-byte stores and register loads with their frames, and memory and index operations
(42_memory_index.md R140 to R145). -/

namespace Sys2Proof.Machine

/-! ### Frames -/

section
variable {P : Piece → Prop} {s t : State}

theorem ChangesOnly.setI (h : ChangesOnly P s t) (hp : P .i) (a : Word) : ChangesOnly P s (t.setI a) := by
  intro p hnot
  cases p
  case i => exact absurd hp hnot
  all_goals exact h _ hnot

/-- New register contents keep a frame when every register that may not change holds what it held. -/
theorem ChangesOnly.setV (h : ChangesOnly P s t) {a : Vector Byte 16}
    (ha : ∀ r : RegIdx, ¬ P (.reg r) → a[r] = t.v[r]) : ChangesOnly P s (t.setV a) := by
  intro p hnot
  cases p
  case reg r => exact (ha r hnot).trans (h _ hnot)
  all_goals exact h _ hnot

end

/-- An index update changes `I` alone. -/
theorem State.setI_frame (s : State) (a : Word) : ChangesOnly (fun p => p = .i) s (s.setI a) :=
  ChangesOnly.setI (P := fun p => p = .i) (ChangesOnly.refl s) rfl a

/-! ### Multi-byte stores, address by address (R54, R57) -/

theorem Memory.read_writeBytes_inside (m : Memory) (a : Nat) {bs : List Byte} {k : Nat} (hk : k < bs.length) :
    (m.writeBytes a bs).read (a + k) = bs[k] := by
  simp [Memory.read_writeBytes, hk]

theorem Memory.read_writeBytes_outside (m : Memory) {a a' : Nat} {bs : List Byte}
    (h : ∀ k, k < bs.length → a' ≠ a + k) : (m.writeBytes a bs).read a' = m.read a' := by
  rw [Memory.read_writeBytes]
  split
  · next hle =>
    have hpast : bs.length ≤ a' - a := by
      by_contra hin
      exact h (a' - a) (by omega) (by omega)
    rw [List.getElem?_eq_none hpast, Option.getD_none]
  · rfl

/-- A store of `n + 1` bytes changes the bytes at `a` to `a + n` alone. -/
theorem State.writeBytes_frame (s : State) (a : Nat) {bs : List Byte} {n : Nat} (hn : bs.length = n + 1) :
    ChangesOnly (fun p => ∃ k, k ≤ n ∧ p = .mem (a + k)) s (s.setMem (s.mem.writeBytes a bs)) := by
  intro p hnot
  cases p
  case mem a' =>
    exact s.mem.read_writeBytes_outside fun k hk ha => hnot ⟨k, by omega, congrArg Piece.mem ha⟩
  case glyphs => exact s.mem.writeBytes_glyphs a bs
  all_goals rfl

/-! ### What is stored and what is loaded -/

/-- A byte's three digits as a later read finds them; each is below 256, so a byte holds it (R143). -/
theorem Memory.read_writeBytes_bcdDigits (m : Memory) (a : Nat) (b : Byte) :
    ((m.writeBytes a (bcdDigits b)).read a).toNat = b.toNat / 100 ∧
      ((m.writeBytes a (bcdDigits b)).read (a + 1)).toNat = b.toNat / 10 % 10 ∧
      ((m.writeBytes a (bcdDigits b)).read (a + 2)).toNat = b.toNat % 10 := by
  have hb := b.isLt
  have hread (k : Nat) (hk : k < 3) : (m.writeBytes a (bcdDigits b)).read (a + k) = (bcdDigits b)[k] :=
    m.read_writeBytes_inside a hk
  have hdigit {n : Nat} (hn : n < 256) : (BitVec.ofNat 8 n).toNat = n :=
    (BitVec.toNat_ofNat n 8).trans (Nat.mod_eq_of_lt hn)
  exact ⟨(congrArg _ (hread 0 (by decide))).trans (hdigit (by omega)),
    (congrArg _ (hread 1 (by decide))).trans (hdigit (by omega)),
    (congrArg _ (hread 2 (by decide))).trans (hdigit (by omega))⟩

theorem State.regsThrough_length (s : State) (x : RegIdx) : (s.regsThrough x).length = x.val + 1 := by
  have hx := x.isLt
  simp only [State.regsThrough, List.length_take, Vector.length_toList]
  omega

theorem State.regsThrough_getElem (s : State) {x k : RegIdx} (hk : k.val < (s.regsThrough x).length) :
    (s.regsThrough x)[k.val] = s.v[k] := by
  simp [State.regsThrough]

theorem State.regsLoaded_getElem (s : State) (x k : RegIdx) :
    (s.regsLoaded x)[k] = if k.val ≤ x.val then s.mem.read (s.i.toNat + k.val) else s.v[k] := by
  simp [State.regsLoaded]

/-! ### The range check of an access whose last address is `a + n` (R58) -/

theorem rangeFault_inside {a n : Nat} (h : a + n ≤ 0xFFF) : rangeFault a (n + 1) = none :=
  rangeFault_none.mpr (.inr (by simp only [memSize]; omega))

theorem rangeFault_beyond {a n : Nat} (h : 0xFFF < a + n) : rangeFault a (n + 1) = some (max a 0x1000) :=
  rangeFault_some.mpr ⟨⟨n.succ_pos, by simp only [memSize]; omega⟩, rfl⟩

/-! ### What the operations that can fault answer (R143 to R145), case by case -/

section
variable {s : State} {x : RegIdx}

theorem exec_ldB_inside (h : s.i.toNat + 2 ≤ 0xFFF) :
    exec (.ldB x) s = .next (s.setMem (s.mem.writeBytes s.i.toNat (bcdDigits s.v[x]))) := by
  simp only [exec, execLdB, rangeFault_inside h]

theorem exec_ldB_beyond (h : 0xFFF < s.i.toNat + 2) :
    exec (.ldB x) s = .next (s.raise ⟨.memoryOutOfRange, max s.i.toNat 0x1000⟩) := by
  simp only [exec, execLdB, rangeFault_beyond h, State.raiseMemory]

theorem exec_stRegs_inside (h : s.i.toNat + x.val ≤ 0xFFF) :
    exec (.stRegs x) s = .next (s.setMem (s.mem.writeBytes s.i.toNat (s.regsThrough x))) := by
  simp only [exec, execStRegs, rangeFault_inside h]

theorem exec_stRegs_beyond (h : 0xFFF < s.i.toNat + x.val) :
    exec (.stRegs x) s = .next (s.raise ⟨.memoryOutOfRange, max s.i.toNat 0x1000⟩) := by
  simp only [exec, execStRegs, rangeFault_beyond h, State.raiseMemory]

theorem exec_ldRegs_inside (h : s.i.toNat + x.val ≤ 0xFFF) :
    exec (.ldRegs x) s = .next (s.setV (s.regsLoaded x)) := by
  simp only [exec, execLdRegs, rangeFault_inside h]

theorem exec_ldRegs_beyond (h : 0xFFF < s.i.toNat + x.val) :
    exec (.ldRegs x) s = .next (s.raise ⟨.memoryOutOfRange, max s.i.toNat 0x1000⟩) := by
  simp only [exec, execLdRegs, rangeFault_beyond h, State.raiseMemory]

end

/-! ### Index values as exact integers -/

/-- Add-to-index's sum, the byte zero-extended (R141). -/
theorem index_add_toNat (i : Word) (b : Byte) :
    (i + b.zeroExtend 16).toNat = (i.toNat + b.toNat) % 65536 := by
  have hb : (b.zeroExtend 16).toNat = b.toNat := BitVec.toNat_setWidth_of_le (by decide)
  rw [BitVec.toNat_add, hb]

/-- Five times a byte is at most 1275, so 16 bits hold it (R142). -/
theorem glyphAddress_toNat (b : Byte) : (glyphAddress b).toNat = 5 * b.toNat := by
  have hb := b.isLt
  exact (BitVec.toNat_ofNat _ _).trans (Nat.mod_eq_of_lt (by omega))

end Sys2Proof.Machine
end

section
open Sys2Proof Sys2Proof.Machine

/-- Settles O52: a store of the three digits in range, a raise past 0xFFD. -/
theorem bcdStoresDigits : Obligations.BcdStoresDigits := by
  intro s x
  refine ⟨fun h => ?_, fun h hr => ⟨_, exec_ldB_beyond (by omega), State.raise_spec hr _⟩⟩
  obtain ⟨hhundreds, htens, hones⟩ := s.mem.read_writeBytes_bcdDigits s.i.toNat s.v[x]
  exact ⟨_, exec_ldB_inside (by omega), hhundreds, htens, hones, s.writeBytes_frame _ rfl⟩

/-- Settles O53: a store of the registers 0 through x in range, a raise past 0xFFF. -/
theorem dumpCopiesRegisters : Obligations.DumpCopiesRegisters := by
  intro s x
  refine ⟨fun h => ⟨_, exec_stRegs_inside h, fun k hk => ?_,
      s.writeBytes_frame _ (s.regsThrough_length x)⟩,
    fun h hr => ⟨_, exec_stRegs_beyond h, State.raise_spec hr _⟩⟩
  have hlen : k.val < (s.regsThrough x).length := by
    rw [s.regsThrough_length]
    exact Nat.lt_succ_of_le hk
  exact (s.mem.read_writeBytes_inside _ hlen).trans (s.regsThrough_getElem hlen)

/-- Settles O54: the registers up to x from memory and the others kept in range, a raise past 0xFFF. -/
theorem loadCopiesMemory : Obligations.LoadCopiesMemory := by
  intro s x
  refine ⟨fun h => ⟨_, exec_ldRegs_inside h, fun k hk => ?_,
      (ChangesOnly.refl s).setV fun r hnot => ?_⟩,
    fun h hr => ⟨_, exec_ldRegs_beyond h, State.raise_spec hr _⟩⟩
  · exact (s.regsLoaded_getElem x k).trans (if_pos hk)
  · exact (s.regsLoaded_getElem x r).trans (if_neg fun hr => hnot ⟨r, hr, rfl⟩)

/-- Settles O49: one index update to an address that 16 bits hold exactly. -/
theorem setIndex : Obligations.SetIndex := by
  intro s nnn
  exact ⟨_, rfl, absolute_toNat nnn, s.setI_frame _⟩

/-- Settles O50: one index update to a 16-bit sum, which wraps. -/
theorem addToIndexWraps : Obligations.AddToIndexWraps := by
  intro s x
  exact ⟨_, rfl, index_add_toNat _ _, s.setI_frame _⟩

/-- Settles O51: one index update to a product that 16 bits hold exactly. -/
theorem glyphAddressIsFiveTimes : Obligations.GlyphAddressIsFiveTimes := by
  intro s x
  exact ⟨_, rfl, glyphAddress_toNat _, s.setI_frame _⟩

end

section
/-! PROOFS. Plotted sprite bits as an XOR with a mask, and the sprite draw (43_display.md R150, R151). -/

namespace Sys2Proof.Machine

/-! ### Drawing as an XOR with a mask -/

/-- `d'` is `d` with the cells of the mask `m` toggled, and its flag reports whether one of them was set in `d`. -/
structure Canvas.Xors (m : Fin 32 → Fin 64 → Bool) (d d' : Canvas) : Prop where
  pixel : ∀ r c, Framebuffer.pixel d'.fb r c = (Framebuffer.pixel d.fb r c ^^ m r c)
  collided : d'.collided = true ↔
    d.collided = true ∨ ∃ r c, Framebuffer.pixel d.fb r c = true ∧ m r c = true

/-- An empty mask draws nothing. -/
theorem Canvas.Xors.refl {m : Fin 32 → Fin 64 → Bool} (hm : ∀ r c, m r c = false) (d : Canvas) :
    Canvas.Xors m d d where
  pixel r c := by simp [hm]
  collided := by simp [hm]

/-- Two disjoint masks, one after the other, draw their union: the second meets cells that the first has left as they
were, so both collision tests are about the first screen. -/
theorem Canvas.Xors.trans {m m₁ m₂ : Fin 32 → Fin 64 → Bool} {d d₁ d₂ : Canvas} (h₁ : Canvas.Xors m₁ d d₁)
    (h₂ : Canvas.Xors m₂ d₁ d₂) (hdisj : ∀ r c, m₁ r c = true → m₂ r c = false)
    (hunion : ∀ r c, m r c = (m₁ r c || m₂ r c)) : Canvas.Xors m d d₂ where
  pixel r c := by
    rw [h₂.pixel, h₁.pixel, hunion]
    cases hm : m₁ r c
    case false => simp
    case true => simp [hdisj r c hm]
  collided := by
    have hkept (r c) (hm : m₂ r c = true) : Framebuffer.pixel d₁.fb r c = Framebuffer.pixel d.fb r c := by
      have hm₁ : m₁ r c = false := by
        by_contra hne
        simp [hdisj r c (by simpa using hne)] at hm
      rw [h₁.pixel, hm₁, Bool.xor_false]
    rw [h₂.collided, h₁.collided, or_assoc]
    refine or_congr_right ⟨?_, ?_⟩
    · rintro (⟨r, c, hp, hm⟩ | ⟨r, c, hp, hm⟩)
      · exact ⟨r, c, hp, by simp [hunion, hm]⟩
      · exact ⟨r, c, hkept r c hm ▸ hp, by simp [hunion, hm]⟩
    · rintro ⟨r, c, hp, hm⟩
      rcases Bool.or_eq_true_iff.mp (hunion r c ▸ hm) with hm | hm
      · exact .inl ⟨r, c, hp, hm⟩
      · exact .inr ⟨r, c, (hkept r c hm).trans hp, hm⟩

/-! ### The masks of a bit, of a row's first columns and of a sprite -/

/-- The mask of one sprite bit at row `y`, column `x`. -/
def bitMask (y x : Nat) (bit : Bool) (r : Fin 32) (c : Fin 64) : Bool := decide (y = r.val ∧ x = c.val) && bit

/-- The mask of the first `k` columns of a sprite byte at row `y`, column `x0`. -/
def rowMask (y x0 k : Nat) (b : Byte) (r : Fin 32) (c : Fin 64) : Bool :=
  decide (y = r.val ∧ x0 ≤ c.val ∧ c.val < x0 + k) && b.getLsbD (7 - (c.val - x0))

/-- The mask of the sprite `rows` at row `y`, column `x0`. -/
def rowsMask (y x0 : Nat) (rows : List Byte) (r : Fin 32) (c : Fin 64) : Bool :=
  decide (y ≤ r.val ∧ r.val < y + rows.length ∧ x0 ≤ c.val ∧ c.val < x0 + 8) &&
    (rows[r.val - y]?.getD 0).getLsbD (7 - (c.val - x0))

theorem rowMask_succ (y x0 k : Nat) (b : Byte) (r : Fin 32) (c : Fin 64) :
    rowMask y x0 (k + 1) b r c = (rowMask y x0 k b r c || bitMask y (x0 + k) (b.getLsbD (7 - k)) r c) := by
  by_cases hc : x0 + k = c.val
  · simp [rowMask, bitMask, ← hc]
  · have hlt : c.val < x0 + (k + 1) ↔ c.val < x0 + k := by omega
    simp [rowMask, bitMask, hlt, hc]

theorem rowsMask_cons (y x0 : Nat) (b : Byte) (bs : List Byte) (r : Fin 32) (c : Fin 64) :
    rowsMask y x0 (b :: bs) r c = (rowMask y x0 8 b r c || rowsMask (y + 1) x0 bs r c) := by
  by_cases hr : y = r.val
  · simp [rowsMask, rowMask, ← hr]
  · by_cases hlt : y + 1 ≤ r.val
    · have hrow : r.val - y = (r.val - (y + 1)) + 1 := by omega
      have hle : y ≤ r.val := by omega
      have hlen : r.val < y + (bs.length + 1) ↔ r.val < y + 1 + bs.length := by omega
      simp [rowsMask, rowMask, hr, hlt, hrow, hle, hlen]
    · have hle : ¬ y ≤ r.val := by omega
      simp [rowsMask, rowMask, hr, hlt, hle]

/-! ### What the pixel loops draw -/

theorem Canvas.plot_xors (d : Canvas) (y x : Nat) (bit : Bool) :
    Canvas.Xors (bitMask y x bit) d (d.plot y x bit) where
  pixel := d.pixel_plot y x bit
  collided := by
    refine (d.collided_plot y x bit).trans (or_congr_right (exists₂_congr fun r c => ?_))
    simp only [bitMask, Bool.and_eq_true, decide_eq_true_eq]
    tauto

/-- The first `k` columns of a sprite byte, left to right: no column is met twice. -/
theorem Canvas.plotColumns_xors (d : Canvas) (y x0 k : Nat) (b : Byte) :
    Canvas.Xors (rowMask y x0 k b) d
      ((List.range k).foldl (fun d c => d.plot y (x0 + c) (b.getLsbD (7 - c))) d) := by
  induction k with
  | zero => exact .refl (fun r c => by simp [rowMask]) d
  | succ k ih =>
    rw [List.range_succ, List.foldl_append]
    refine ih.trans (Canvas.plot_xors _ y (x0 + k) _) (fun r c hm => ?_) (rowMask_succ y x0 k b)
    have hc : ¬ x0 + k = c.val := by
      simp only [rowMask, Bool.and_eq_true, decide_eq_true_eq] at hm
      omega
    simp [bitMask, hc]

/-- The sprite bytes, top row first: no row is met twice. -/
theorem Canvas.plotRows_xors (d : Canvas) (y x0 : Nat) (rows : List Byte) :
    Canvas.Xors (rowsMask y x0 rows) d (d.plotRows y x0 rows) := by
  induction rows generalizing d y with
  | nil => exact .refl (fun r c => by simp [rowsMask]) d
  | cons b bs ih =>
    refine (d.plotColumns_xors y x0 8 b).trans (ih _ (y + 1)) (fun r c hm => ?_) (rowsMask_cons y x0 b bs)
    have hr : ¬ y + 1 ≤ r.val := by
      simp only [rowMask, Bool.and_eq_true, decide_eq_true_eq] at hm
      omega
    simp [rowsMask, hr]

/-! ### The sprite draw -/

/-- The canvas that a draw of `n` rows leaves. -/
def State.drawn (s : State) (x y : RegIdx) (n : Nat) : Canvas :=
  Framebuffer.drawSprite s.fb (s.startRow y) (s.startColumn x) (s.mem.readBytes s.base n)

/-- The mask of the bytes at `I` is the clipped sprite of R150. -/
theorem rowsMask_readBytes (s : State) (x y : RegIdx) (n : Nat) (r : Fin 32) (c : Fin 64) :
    rowsMask (s.startRow y) (s.startColumn x) (s.mem.readBytes s.base n) r c = s.spriteBit x y n r c := by
  unfold rowsMask State.spriteBit
  rw [Memory.readBytes_length, Bool.eq_iff_iff, Bool.and_eq_true, Bool.and_eq_true]
  refine and_congr_right fun hin => ?_
  rw [decide_eq_true_eq] at hin
  rw [Memory.readBytes_getElem? _ _ _ _ (by omega)]
  rfl

/-- A draw XORs the clipped sprite into the screen and reports a set cell that met a sprite bit of 1. -/
theorem State.drawn_xors (s : State) (x y : RegIdx) (n : Nat) :
    Canvas.Xors (s.spriteBit x y n) ⟨s.fb, false⟩ (s.drawn x y n) := by
  have hmask : rowsMask (s.startRow y) (s.startColumn x) (s.mem.readBytes s.base n) = s.spriteBit x y n :=
    funext₂ (rowsMask_readBytes s x y n)
  exact hmask ▸ Canvas.plotRows_xors ⟨s.fb, false⟩ _ _ _

theorem exec_drw_inside {s : State} {x y : RegIdx} {n : Fin 16} (h : n.val = 0 ∨ s.i.toNat + n.val - 1 ≤ 0xFFF) :
    exec (.drw x y n) s = .next
      ((s.setFb (s.drawn x y n.val).fb).writeReg flagReg (flagByte (s.drawn x y n.val).collided)) := by
  have hrange : rangeFault s.i.toNat n.val = none := rangeFault_none.mpr (by simp only [memSize]; omega)
  simp only [exec, execDrw, hrange, State.drawn]

theorem exec_drw_beyond {s : State} {x y : RegIdx} {n : Fin 16} (hn : n.val ≠ 0)
    (h : 0xFFF < s.i.toNat + n.val - 1) :
    exec (.drw x y n) s = .next (s.raise ⟨.memoryOutOfRange, max s.i.toNat 0x1000⟩) := by
  have hrange : rangeFault s.i.toNat n.val = some (max s.i.toNat 0x1000) :=
    rangeFault_some.mpr ⟨⟨by omega, by simp only [memSize]; omega⟩, rfl⟩
  simp only [exec, execDrw, hrange, State.raiseMemory]

end Sys2Proof.Machine
end

section
open Sys2Proof Sys2Proof.Machine

/-- Settles O55: the loops draw pairwise disjoint one-bit masks, whose union is the clipped sprite; a raise out of
range. -/
theorem drawXorsClippedSprite : Obligations.DrawXorsClippedSprite := by
  intro s x y n
  refine ⟨fun h => ?_, fun hn h hr => ⟨_, exec_drw_beyond hn h, State.raise_spec hr _⟩⟩
  obtain ⟨hpixel, hcollided⟩ := s.drawn_xors x y n.val
  have hflag {t : State} {hit b : Bool} (hb : hit = b) : (t.writeReg flagReg (flagByte hit)).v[15] = flagByte b :=
    hb ▸ t.v_writeReg_self flagReg _
  refine ⟨_, exec_drw_inside h, hpixel, fun hhit => hflag (hcollided.mpr (.inr hhit)),
    fun hmiss => hflag (b := false) (Bool.eq_false_iff.mpr fun hc => ?_), ?_⟩
  · exact hmiss ((hcollided.mp hc).resolve_left Bool.false_ne_true)
  · exact ((ChangesOnly.refl s).setFb (fun r c => .inr ⟨r, c, rfl⟩) _).writeReg (.inl rfl) _

end

section
/-! PROOFS. Timer updates with their frames, what an operation and a cycle leave in the timers (R164), and the operations
on timers and keys (44_timers_input.md R160 to R163). -/

namespace Sys2Proof.Machine

/-! ### Frames -/

section
variable {P : Piece → Prop} {s t : State}

theorem ChangesOnly.setDt (h : ChangesOnly P s t) (hp : P .dt) (a : Byte) : ChangesOnly P s (t.setDt a) := by
  intro p hnot
  cases p
  case dt => exact absurd hp hnot
  all_goals exact h _ hnot

theorem ChangesOnly.setSt (h : ChangesOnly P s t) (hp : P .st) (a : Byte) : ChangesOnly P s (t.setSt a) := by
  intro p hnot
  cases p
  case st => exact absurd hp hnot
  all_goals exact h _ hnot

/-- A frame that allows neither a fault nor a timer. -/
theorem ChangesOnly.keeps_fault_timers (h : ChangesOnly P s t) (hfault : ¬ P .fault) (hdt : ¬ P .dt) (hst : ¬ P .st) :
    t.fault = s.fault ∧ t.dt = s.dt ∧ t.st = s.st :=
  ⟨h _ hfault, h _ hdt, h _ hst⟩

end

/-- A `DT` update changes `DT` alone. -/
theorem State.setDt_frame (s : State) (a : Byte) : ChangesOnly (fun p => p = .dt) s (s.setDt a) :=
  ChangesOnly.setDt (P := fun p => p = .dt) (ChangesOnly.refl s) rfl a

/-- An `ST` update changes `ST` alone. -/
theorem State.setSt_frame (s : State) (a : Byte) : ChangesOnly (fun p => p = .st) s (s.setSt a) :=
  ChangesOnly.setSt (P := fun p => p = .st) (ChangesOnly.refl s) rfl a

theorem State.skipIf_keeps_fault_timers (s : State) (c : Bool) :
    (s.skipIf c).fault = s.fault ∧ (s.skipIf c).dt = s.dt ∧ (s.skipIf c).st = s.st :=
  (s.skipIf_spec c).2.keeps_fault_timers (by simp) (by simp) (by simp)

theorem State.writeResultFlag_keeps_fault_timers (s : State) (x : RegIdx) (res : Byte) (f : Bool) :
    (s.writeResultFlag x res f).fault = s.fault ∧ (s.writeResultFlag x res f).dt = s.dt ∧
      (s.writeResultFlag x res f).st = s.st :=
  (s.writeBoth_frame _ x res f).keeps_fault_timers (by simp) (by simp) (by simp)

/-! ### Block-on-key (R163) -/

/-- The scan finds the pressed key below which none is pressed. -/
theorem State.leastKey_eq_some_iff {s : State} {k : Fin 16} :
    s.leastKey = some k ↔ s.keys[k] = true ∧ ∀ j : Fin 16, j < k → s.keys[j] = false := by
  rw [State.leastKey, ← Fin.find?_eq_find?_finRange, Fin.find?_eq_some_iff]

theorem State.leastKey_eq_none_iff {s : State} : s.leastKey = none ↔ ∀ k : Fin 16, s.keys[k] = false := by
  rw [State.leastKey, ← Fin.find?_eq_find?_finRange, Fin.find?_eq_none_iff]

theorem exec_ldKey_pressed {s : State} {k : Fin 16} (x : RegIdx) (h : s.leastKey = some k) :
    exec (.ldKey x) s = .next (s.writeReg x (BitVec.ofNat 8 k.val)) := by
  simp only [exec, execLdKey, h]

theorem exec_ldKey_waits {s : State} (x : RegIdx) (h : s.leastKey = none) :
    exec (.ldKey x) s = .next (s.setPc (s.pc - 2)) := by
  simp only [exec, execLdKey, h]

/-- A key index fits a byte. -/
theorem keyByte_toNat (k : Fin 16) : (BitVec.ofNat 8 k.val).toNat = k.val :=
  (BitVec.toNat_ofNat _ _).trans (Nat.mod_eq_of_lt (by omega))

/-! ### What an operation leaves in the timers before the decay -/

/-- `DT` as the operation `i` leaves it where it raises no fault: Set-delay alone writes it (R28, R161). -/
def delayLeft (i : Instr) (s : State) : Byte :=
  match i with
  | .ldDt x => s.v[x]
  | _ => s.dt

/-- `ST` as the operation `i` leaves it where it raises no fault: Set-sound alone writes it (R28, R162). -/
def soundLeft (i : Instr) (s : State) : Byte :=
  match i with
  | .ldSt x => s.v[x]
  | _ => s.st

theorem delayLeft_eq_dt {i : Instr} (h : ∀ x, i ≠ .ldDt x) (s : State) : delayLeft i s = s.dt := by
  cases i
  case ldDt x => exact absurd rfl (h x)
  all_goals rfl

theorem soundLeft_eq_st {i : Instr} (h : ∀ x, i ≠ .ldSt x) (s : State) : soundLeft i s = s.st := by
  cases i
  case ldSt x => exact absurd rfl (h x)
  all_goals rfl

/-- An operation raises a fault, or leaves FAULT as it was and the timers at `delayLeft` and `soundLeft`. -/
theorem exec_fault_timers (i : Instr) (s : State) :
    (∃ f, exec i s = .next (s.raise f)) ∨
    ∃ t, exec i s = .next t ∧ t.fault = s.fault ∧ t.dt = delayLeft i s ∧ t.st = soundLeft i s := by
  cases i
  case ret =>
    obtain h | h := Nat.eq_zero_or_pos s.sp.val
    · exact .inl ⟨_, exec_ret_empty h⟩
    · exact .inr ⟨_, exec_ret_some h, rfl, rfl, rfl⟩
  case call nnn =>
    obtain h | h := Nat.lt_succ_iff_lt_or_eq.mp s.sp.isLt
    · exact .inr ⟨_, exec_call_room nnn h, rfl, rfl, rfl⟩
    · exact .inl ⟨_, exec_call_full nnn h⟩
  case seImm | sneImm | seReg | sneReg => exact .inr ⟨_, rfl, s.skipIf_keeps_fault_timers _⟩
  case skp x =>
    obtain h | h := Nat.lt_or_ge 15 (s.v[x]).toNat
    · exact .inl ⟨_, exec_skp_noKey h⟩
    · exact .inr ⟨_, exec_skp_key (Nat.lt_succ_of_le h), s.skipIf_keeps_fault_timers _⟩
  case sknp x =>
    obtain h | h := Nat.lt_or_ge 15 (s.v[x]).toNat
    · exact .inl ⟨_, exec_sknp_noKey h⟩
    · exact .inr ⟨_, exec_sknp_key (Nat.lt_succ_of_le h), s.skipIf_keeps_fault_timers _⟩
  case addReg | subReg | subnReg | shr | shl =>
    exact .inr ⟨_, rfl, s.writeResultFlag_keeps_fault_timers _ _ _⟩
  case ldB x =>
    obtain h | h := Nat.lt_or_ge 0xFFF (s.i.toNat + 2)
    · exact .inl ⟨_, exec_ldB_beyond h⟩
    · exact .inr ⟨_, exec_ldB_inside h, rfl, rfl, rfl⟩
  case stRegs x =>
    obtain h | h := Nat.lt_or_ge 0xFFF (s.i.toNat + x.val)
    · exact .inl ⟨_, exec_stRegs_beyond h⟩
    · exact .inr ⟨_, exec_stRegs_inside h, rfl, rfl, rfl⟩
  case ldRegs x =>
    obtain h | h := Nat.lt_or_ge 0xFFF (s.i.toNat + x.val)
    · exact .inl ⟨_, exec_ldRegs_beyond h⟩
    · exact .inr ⟨_, exec_ldRegs_inside h, rfl, rfl, rfl⟩
  case drw x y n =>
    by_cases h : n.val = 0 ∨ s.i.toNat + n.val - 1 ≤ 0xFFF
    · exact .inr ⟨_, exec_drw_inside h, rfl, rfl, rfl⟩
    · exact .inl ⟨_, exec_drw_beyond (by omega) (by omega)⟩
  case ldKey x =>
    cases h : s.leastKey
    case none => exact .inr ⟨_, exec_ldKey_waits x h, rfl, rfl, rfl⟩
    case some k => exact .inr ⟨_, exec_ldKey_pressed x h, rfl, rfl, rfl⟩
  all_goals exact .inr ⟨_, rfl, rfl, rfl, rfl⟩

/-! ### The cycle of an operation and its timers (R72, R164) -/

theorem State.Executes.unique {s : State} {i j : Instr} (hi : s.Executes i) (hj : s.Executes j) : i = j :=
  Option.some.inj (hi.decodes.symm.trans hj.decodes)

theorem step_executes {s : State} {i : Instr} (h : s.Executes i) : step s = finishCycle (exec i s.advancePc) := by
  obtain ⟨f, hfault, -⟩ | ⟨-, hnot, -⟩ | ⟨-, -, hnone, -⟩ | ⟨j, hj, hstep⟩ := step_cases s
  · simp [h.running] at hfault
  · exact absurd h.fetchable hnot
  · simp [h.decodes] at hnone
  · exact h.unique hj ▸ hstep

/-- The cycle of an operation that raises no fault. -/
theorem step_executes_ok {s t : State} {i : Instr} (h : s.Executes i) (hexec : exec i s.advancePc = .next t)
    (hfault : t.fault = none) : step s = .next t.decay := by
  rw [step_executes h, hexec, finishCycle_ok t hfault]

/-- The cycle of an operation that raises a fault (R183). -/
theorem step_executes_raise {s : State} {i : Instr} {f : FaultRecord} (h : s.Executes i)
    (hexec : exec i s.advancePc = .next (s.advancePc.raise f)) : step s = .next (s.setFault (some f)) := by
  rw [step_executes h, hexec, s.raise_advancePc f h.running, finishCycle_fault _ f rfl]

/-- The timers after a running machine's cycle: as they were when it faults, decayed after a no-op word, and after an
operation decayed from what the operation has left. -/
theorem step_timers {s t : State} (hr : s.Running) (hstep : step s = .next t) :
    (t.fault ≠ none ∧ t.dt = s.dt ∧ t.st = s.st) ∨
    (t.fault = none ∧ (∀ i, ¬ s.Executes i) ∧ t.dt = decayTimer s.dt ∧ t.st = decayTimer s.st) ∨
    ∃ i, s.Executes i ∧ t.fault = none ∧ t.dt = decayTimer (delayLeft i s.advancePc) ∧
      t.st = decayTimer (soundLeft i s.advancePc) := by
  have hnext {u : State} (hu : step s = .next u) : u = t := Host.Outcome.next.inj (hu.symm.trans hstep)
  obtain ⟨f, hfault, -⟩ | ⟨-, hnot, -⟩ | ⟨-, hfetch, hnone, hnoOp⟩ | ⟨i, hi, -⟩ := step_cases s
  · simp [hr] at hfault
  · obtain rfl := hnext (step_fetchFault hr hnot)
    exact .inl ⟨by simp, rfl, rfl⟩
  · obtain rfl := hnext hnoOp
    exact .inr (.inl ⟨hr, fun i hi => by simp [hi.decodes] at hnone, rfl, rfl⟩)
  · obtain ⟨f, hraise⟩ | ⟨u, hexec, hfault, hdt, hst⟩ := exec_fault_timers i s.advancePc
    · obtain rfl := hnext (step_executes_raise hi hraise)
      exact .inl ⟨by simp, rfl, rfl⟩
    · obtain rfl := hnext (step_executes_ok hi hexec (hfault.trans hr))
      exact .inr (.inr ⟨i, hi, hfault.trans hr, congrArg decayTimer hdt, congrArg decayTimer hst⟩)

end Sys2Proof.Machine
end

section
open Sys2Proof Sys2Proof.Machine

/-- Settles O13: the cycle's timers case by case; the operation a cycle executes is unique, so what it leaves in a timer
is the register of a Set-delay or Set-sound, or else the old value. -/
theorem timersDecayOncePerCycle : Obligations.TimersDecayOncePerCycle := by
  intro s t hr hstep
  obtain ⟨hfault, htimers⟩ | ⟨hfault, hnoOp, hdt, hst⟩ | ⟨i, hi, hfault, hdt, hst⟩ := step_timers hr hstep
  · exact ⟨fun hnone => absurd hnone hfault, fun _ => htimers⟩
  · refine ⟨fun _ => ⟨fun x hx => absurd hx (hnoOp _), fun _ => ?_, fun x hx => absurd hx (hnoOp _), fun _ => ?_⟩,
      absurd hfault⟩
    · rw [hdt, decayTimer_toNat]
    · rw [hst, decayTimer_toNat]
  · rw [hdt, hst, decayTimer_toNat, decayTimer_toNat]
    refine ⟨fun _ => ⟨fun x hx => ?_, fun hnot => ?_, fun x hx => ?_, fun hnot => ?_⟩, absurd hfault⟩
    · obtain rfl := hi.unique hx
      rfl
    · rw [delayLeft_eq_dt fun x hx => hnot ⟨x, hx ▸ hi⟩]
      rfl
    · obtain rfl := hi.unique hx
      rfl
    · rw [soundLeft_eq_st fun x hx => hnot ⟨x, hx ▸ hi⟩]
      rfl

/-- Settles O59: the scan's answer is the least pressed key, stored as a byte, or none, which moves `pc` back. -/
theorem blockOnKey : Obligations.BlockOnKey := by
  intro s x
  refine ⟨fun k hk hleast => ⟨_, exec_ldKey_pressed x (State.leastKey_eq_some_iff.mpr ⟨hk, hleast⟩), ?_,
      s.writeReg_frame x _⟩,
    fun hnone => ⟨_, exec_ldKey_waits x (State.leastKey_eq_none_iff.mpr hnone), rfl, s.setPc_frame _⟩⟩
  rw [State.v_writeReg_self, keyByte_toNat]

/-- Settles O57: each operation is one update; the decay at the end of its cycle acts on the timer it leaves. -/
theorem timerAccess : Obligations.TimerAccess := by
  intro s x
  refine ⟨⟨_, rfl, s.v_writeReg_self x _, s.writeReg_frame x _⟩, ⟨_, rfl, rfl, s.setDt_frame _⟩,
    ⟨_, rfl, rfl, s.setSt_frame _⟩, fun h => ?_, fun h => ?_⟩
  · exact ⟨_, step_executes_ok h rfl h.running, s.advancePc.v_writeReg_self x _, decayTimer_toNat s.dt⟩
  · exact ⟨_, step_executes_ok h rfl h.running, decayTimer_toNat s.v[x]⟩

end

section
/-! PROOFS. The load transaction with its frame (45_host_interface.md R171). -/

namespace Sys2Proof.Machine

/-- A multi-byte store, of no byte perhaps, keeps a frame when each byte of its range may change. -/
theorem ChangesOnly.writeBytes {P : Piece → Prop} {s t : State} (h : ChangesOnly P s t) {a : Nat} {bs : List Byte}
    (hp : ∀ k, k < bs.length → P (.mem (a + k))) : ChangesOnly P s (t.setMem (t.mem.writeBytes a bs)) := by
  intro p hnot
  cases p
  case mem a' =>
    have hout : ∀ k, k < bs.length → a' ≠ a + k := fun k hk ha => hnot (ha ▸ hp k hk)
    exact (t.mem.read_writeBytes_outside hout).trans (h _ hnot)
  case glyphs => exact (t.mem.writeBytes_glyphs a bs).trans (h _ hnot)
  all_goals exact h _ hnot

/-! ### The answer of load, case by case -/

theorem programFits_iff {bytes : List Byte} : programFits bytes ↔ bytes.length ≤ 3583 := decide_eq_true_iff

theorem State.load_fits (s : State) {bytes : List Byte} (h : bytes.length ≤ 3583) :
    s.load bytes = (.ok, (s.setMem (s.mem.writeBytes 0x200 bytes)).setPc resetPc) :=
  if_pos (programFits_iff.mpr h)

theorem State.load_tooLong (s : State) {bytes : List Byte} (h : 3583 < bytes.length) :
    s.load bytes = (.sizeError, s) :=
  if_neg fun hfits => absurd (programFits_iff.mp hfits) (by omega)

end Sys2Proof.Machine
end

section
open Sys2Proof Sys2Proof.Machine

/-- Settles O31: a sequence that fits is one multi-byte store at 0x200 and one update of `pc`, each with its frame; one
that is too long leaves the state as it is. -/
theorem loadWritesProgram : Obligations.LoadWritesProgram := by
  refine fun s bytes => ⟨s.load_tooLong, fun hfits => ⟨_, s.load_fits hfits, rfl,
    fun k hk => s.mem.read_writeBytes_inside 0x200 hk, ?_⟩⟩
  exact ((ChangesOnly.refl s).writeBytes fun k hk => .inr ⟨k, hk, rfl⟩).setPc (.inl rfl) resetPc

end

section
/-! PROOFS. The faults of 60_exceptions.md: the table of R180 clause by clause, what an operation and a cycle do where a
fault is due and where none is, and what a halted machine leaves as it is (R184). -/

namespace Sys2Proof.Machine

/-! ### The table of R180 -/

theorem outOfRange_inside {a n : Nat} (h : n = 0 ∨ a + n ≤ 0x1000) : outOfRange a n = none :=
  if_neg (by omega)

theorem outOfRange_beyond {a n : Nat} (hn : n ≠ 0) (h : 0x1000 < a + n) :
    outOfRange a n = some ⟨.memoryOutOfRange, max a 0x1000⟩ :=
  if_pos ⟨hn, h⟩

/-- No fault condition of an operation reads `pc`, so the advance of fetch leaves what is due. -/
theorem faultOf_advancePc (i : Instr) (s : State) : faultOf i s.advancePc = faultOf i s := by
  cases i <;> rfl

theorem State.faultDue_of_not_fetchable {s : State} (h : ¬ s.Fetchable) :
    s.faultDue = some ⟨.memoryOutOfRange, max s.pc.toNat 0x1000⟩ := by
  rw [State.faultDue, outOfRange_beyond (by decide) (Nat.add_lt_add_right (Nat.lt_of_not_le h) 2)]

theorem State.faultDue_of_fetchable {s : State} (h : s.Fetchable) :
    s.faultDue = (decode s.wordAtPc).bind fun i => faultOf i s := by
  rw [State.faultDue, outOfRange_inside (.inr (Nat.add_le_add_right h 2))]

/-- Past the fetch a cycle is due what its operation is due after the pc advance. -/
theorem State.Executes.faultDue_eq {s : State} {i : Instr} (h : s.Executes i) :
    s.faultDue = faultOf i s.advancePc := by
  rw [State.faultDue_of_fetchable h.fetchable, h.decodes, Option.bind_some, faultOf_advancePc]

/-! ### What is due is raised, and nothing else -/

/-- An operation raises the fault it is due, or is due none and leaves FAULT as it was. -/
theorem exec_due (i : Instr) (s : State) :
    (∃ f, faultOf i s = some f ∧ exec i s = .next (s.raise f)) ∨
    (faultOf i s = none ∧ ∃ t, exec i s = .next t ∧ t.fault = s.fault) := by
  cases i
  case ret =>
    obtain h | h := Nat.eq_zero_or_pos s.sp.val
    · exact .inl ⟨_, if_pos h, exec_ret_empty h⟩
    · exact .inr ⟨if_neg h.ne', _, exec_ret_some h, rfl⟩
  case call nnn =>
    obtain h | h := Nat.lt_succ_iff_lt_or_eq.mp s.sp.isLt
    · exact .inr ⟨if_neg h.ne, _, exec_call_room nnn h, rfl⟩
    · exact .inl ⟨_, if_pos h, exec_call_full nnn h⟩
  case skp x =>
    obtain h | h := Nat.lt_or_ge 15 (s.v[x]).toNat
    · exact .inl ⟨_, if_pos h, exec_skp_noKey h⟩
    · exact .inr ⟨if_neg h.not_gt, _, exec_skp_key (Nat.lt_succ_of_le h), (s.skipIf_keeps_fault_timers _).1⟩
  case sknp x =>
    obtain h | h := Nat.lt_or_ge 15 (s.v[x]).toNat
    · exact .inl ⟨_, if_pos h, exec_sknp_noKey h⟩
    · exact .inr ⟨if_neg h.not_gt, _, exec_sknp_key (Nat.lt_succ_of_le h), (s.skipIf_keeps_fault_timers _).1⟩
  case ldB x =>
    obtain h | h := Nat.lt_or_ge 0xFFF (s.i.toNat + 2)
    · exact .inl ⟨_, outOfRange_beyond (by omega) (by omega), exec_ldB_beyond h⟩
    · exact .inr ⟨outOfRange_inside (by omega), _, exec_ldB_inside h, rfl⟩
  case stRegs x =>
    obtain h | h := Nat.lt_or_ge 0xFFF (s.i.toNat + x.val)
    · exact .inl ⟨_, outOfRange_beyond (by omega) (by omega), exec_stRegs_beyond h⟩
    · exact .inr ⟨outOfRange_inside (by omega), _, exec_stRegs_inside h, rfl⟩
  case ldRegs x =>
    obtain h | h := Nat.lt_or_ge 0xFFF (s.i.toNat + x.val)
    · exact .inl ⟨_, outOfRange_beyond (by omega) (by omega), exec_ldRegs_beyond h⟩
    · exact .inr ⟨outOfRange_inside (by omega), _, exec_ldRegs_inside h, rfl⟩
  case drw x y n =>
    by_cases h : n.val = 0 ∨ s.i.toNat + n.val - 1 ≤ 0xFFF
    · exact .inr ⟨outOfRange_inside (by omega), _, exec_drw_inside h, rfl⟩
    · exact .inl ⟨_, outOfRange_beyond (by omega) (by omega), exec_drw_beyond (by omega) (by omega)⟩
  case seImm | sneImm | seReg | sneReg => exact .inr ⟨rfl, _, rfl, (s.skipIf_keeps_fault_timers _).1⟩
  case addReg | subReg | subnReg | shr | shl =>
    exact .inr ⟨rfl, _, rfl, (s.writeResultFlag_keeps_fault_timers _ _ _).1⟩
  case ldKey x =>
    cases h : s.leastKey
    case none => exact .inr ⟨rfl, _, exec_ldKey_waits x h, rfl⟩
    case some k => exact .inr ⟨rfl, _, exec_ldKey_pressed x h, rfl⟩
  all_goals exact .inr ⟨rfl, _, rfl, rfl⟩

/-- A running machine's cycle latches the fault it is due and changes nothing else (R183), or is due none and raises
none. -/
theorem step_due {s : State} (hr : s.Running) :
    (∃ f, s.faultDue = some f ∧ step s = .next (s.setFault (some f))) ∨
    (s.faultDue = none ∧ ∃ t, step s = .next t ∧ t.fault = none) := by
  obtain ⟨f, hfault, -⟩ | ⟨-, hnot, -⟩ | ⟨-, hfetch, hnone, hnoOp⟩ | ⟨i, hi, -⟩ := step_cases s
  · simp [hr] at hfault
  · exact .inl ⟨_, State.faultDue_of_not_fetchable hnot, step_fetchFault hr hnot⟩
  · have hdue : s.faultDue = none := by rw [State.faultDue_of_fetchable hfetch, hnone, Option.bind_none]
    exact .inr ⟨hdue, _, hnoOp, hr⟩
  · rw [hi.faultDue_eq]
    obtain ⟨f, hdue, hraise⟩ | ⟨hdue, t, hexec, hfault⟩ := exec_due i s.advancePc
    · exact .inl ⟨f, hdue, step_executes_raise hi hraise⟩
    · exact .inr ⟨hdue, _, step_executes_ok hi hexec (hfault.trans hr), hfault.trans hr⟩

/-! ### A halted machine (R184) -/

theorem step_halted {s : State} {f : FaultRecord} (h : s.fault = some f) : step s = .next s := by
  obtain ⟨-, -, hstep⟩ | ⟨hr, -⟩ | ⟨hr, -⟩ | ⟨i, hi, -⟩ := step_cases s
  · exact hstep
  · simp [hr] at h
  · simp [hr] at h
  · simp [hi.running] at h

theorem State.load_fault (s : State) (bytes : List Byte) : (s.load bytes).2.fault = s.fault := by
  obtain h | h := Nat.lt_or_ge 3583 bytes.length
  · rw [s.load_tooLong h]
  · rw [s.load_fits h]
    rfl

end Sys2Proof.Machine
end

section
open Sys2Proof Sys2Proof.Machine

/-- Settles O11: the cycle latches the fault it is due, or is due none and leaves FAULT clear. -/
theorem faultsExactlyWhenDue : Obligations.FaultsExactlyWhenDue := by
  refine ⟨fun s hr => ?_, rfl, rfl, rfl, rfl⟩
  obtain ⟨f, hdue, hstep⟩ | ⟨hdue, t, hstep, hfault⟩ := step_due hr
  · exact ⟨_, hstep, hdue.symm⟩
  · exact ⟨t, hstep, hfault.trans hdue.symm⟩

/-- Settles O10: a cycle that leaves a fault is the one that latches what is due. -/
theorem faultChangesOnlyTheLatch : Obligations.FaultChangesOnlyTheLatch := by
  intro s t hr hstep hne
  have hnext {u : State} (hu : step s = .next u) : t = u := Host.Outcome.next.inj (hstep.symm.trans hu)
  obtain ⟨f, hdue, hlatch⟩ | ⟨-, u, hu, hfault⟩ := step_due hr
  · rw [hdue, hnext hlatch]
  · exact absurd (hnext hu ▸ hfault) hne

/-- Settles O9: the cycle of a halted machine, and FAULT through the host's transactions. -/
theorem haltedUntilReset : Obligations.HaltedUntilReset := by
  intro s f h
  exact ⟨step_halted h, fun bytes => (s.load_fault bytes).trans h, fun _ => h, rfl⟩

end

section
/-! PROOFS. The entry point 0x200 (R201): where construction, the host's reset and an accepted load leave `pc`. -/

namespace Sys2Proof.Machine

@[simp] theorem resetPc_toNat : resetPc.toNat = 0x200 := rfl

@[simp] theorem State.resetWith_pc (glyphs : Vector Byte 80) : (State.resetWith glyphs).pc = resetPc := rfl

@[simp] theorem State.hostReset_pc (s : State) : s.hostReset.pc = resetPc := by
  rw [State.hostReset, State.setDraws_pc, State.resetWith_pc]

/-- A sequence that is too long is out, since it answers sizeError. -/
theorem State.load_pc_of_ok {s : State} {bytes : List Byte} (hok : (s.load bytes).1 = .ok) :
    (s.load bytes).2.pc = resetPc := by
  obtain htooLong | hfits := Nat.lt_or_ge 3583 bytes.length
  · simp [s.load_tooLong htooLong] at hok
  · rw [s.load_fits hfits, State.setPc_pc]

end Sys2Proof.Machine
end

section
open Sys2Proof Sys2Proof.Machine

/-- Settles O29: each of the three leaves `pc` at its reset value, the load because it answers ok. -/
theorem entryPointIsFixed : Obligations.EntryPointIsFixed := by
  have hconstructed (glyphs : Vector Byte 80) : (State.resetWith glyphs).pc.toNat = 0x200 := by
    rw [State.resetWith_pc, resetPc_toNat]
  refine ⟨hconstructed, hconstructed glyphRomDefault, fun s => ⟨?_, fun bytes hok => ?_⟩⟩
  · rw [State.hostReset_pc, resetPc_toNat]
  · rw [State.load_pc_of_ok hok, resetPc_toNat]

end

section
/-! PROOFS. Words and their fields, in both directions (30_encoding.md R73, R74), and the decoder, the encoder and the
opcode map (R75 to R83). -/

namespace Sys2Proof

/-! ### Fields and words as numbers (R73, R74) -/

theorem xOf_val (w : Word) : (xOf w).val = w.toNat / 0x100 % 0x10 := by
  simp [xOf, Nat.shiftRight_eq_div_pow]

theorem yOf_val (w : Word) : (yOf w).val = w.toNat / 0x10 % 0x10 := by
  simp [yOf, Nat.shiftRight_eq_div_pow]

theorem nnnOf_toNat (w : Word) : (nnnOf w).toNat = w.toNat % 0x1000 := by
  simp [nnnOf, BitVec.extractLsb'_toNat]

/-- The number of two bit strings, the first one high. -/
theorem append_toNat {m n : Nat} (hi : BitVec m) (lo : BitVec n) :
    (hi ++ lo).toNat = hi.toNat * 2 ^ n + lo.toNat := by
  rw [BitVec.toNat_append, ← Nat.shiftLeft_add_eq_or_of_lt lo.isLt, Nat.shiftLeft_eq]

section
variable (f : Nibble) (nnn : Addr12) (kk : Byte) (x y n : Fin 16)

theorem wordA_toNat : (wordA f nnn).toNat = f.toNat * 0x1000 + nnn.toNat :=
  append_toNat f nnn

theorem wordXK_toNat : (wordXK f x kk).toNat = f.toNat * 0x1000 + x.val * 0x100 + kk.toNat := by
  have hx : (BitVec.ofFin x : Nibble).toNat = x.val := rfl
  rw [wordXK, append_toNat, append_toNat, hx]
  omega

theorem wordXY_toNat :
    (wordXY f x y n).toNat = f.toNat * 0x1000 + x.val * 0x100 + y.val * 0x10 + n.val := by
  have hx : (BitVec.ofFin x : Nibble).toNat = x.val := rfl
  have hy : (BitVec.ofFin y : Nibble).toNat = y.val := rfl
  have hn : (BitVec.ofFin n : Nibble).toNat = n.val := rfl
  rw [wordXY, append_toNat, append_toNat, append_toNat, hx, hy, hn]
  omega

/-! ### The fields of an assembled word -/

@[simp] theorem famOf_wordA : famOf (wordA f nnn) = f := by
  apply BitVec.eq_of_toNat_eq
  rw [famOf_toNat, wordA_toNat]
  omega

@[simp] theorem nnnOf_wordA : nnnOf (wordA f nnn) = nnn := by
  apply BitVec.eq_of_toNat_eq
  rw [nnnOf_toNat, wordA_toNat]
  omega

@[simp] theorem famOf_wordXK : famOf (wordXK f x kk) = f := by
  apply BitVec.eq_of_toNat_eq
  rw [famOf_toNat, wordXK_toNat]
  omega

@[simp] theorem xOf_wordXK : xOf (wordXK f x kk) = x := by
  apply Fin.ext
  rw [xOf_val, wordXK_toNat]
  omega

@[simp] theorem kkOf_wordXK : kkOf (wordXK f x kk) = kk := by
  apply BitVec.eq_of_toNat_eq
  rw [kkOf_toNat, wordXK_toNat]
  omega

@[simp] theorem famOf_wordXY : famOf (wordXY f x y n) = f := by
  apply BitVec.eq_of_toNat_eq
  rw [famOf_toNat, wordXY_toNat]
  omega

@[simp] theorem xOf_wordXY : xOf (wordXY f x y n) = x := by
  apply Fin.ext
  rw [xOf_val, wordXY_toNat]
  omega

@[simp] theorem yOf_wordXY : yOf (wordXY f x y n) = y := by
  apply Fin.ext
  rw [yOf_val, wordXY_toNat]
  omega

@[simp] theorem nOf_wordXY : nOf (wordXY f x y n) = n := by
  apply Fin.ext
  rw [nOf_val, wordXY_toNat]
  omega

end

/-! ### A word is its fields in the shape of a format -/

theorem wordA_fields (w : Word) : wordA (famOf w) (nnnOf w) = w := by
  apply BitVec.eq_of_toNat_eq
  rw [wordA_toNat, famOf_toNat, nnnOf_toNat]
  omega

theorem wordXK_fields (w : Word) : wordXK (famOf w) (xOf w) (kkOf w) = w := by
  apply BitVec.eq_of_toNat_eq
  rw [wordXK_toNat, famOf_toNat, xOf_val, kkOf_toNat]
  omega

theorem wordXY_fields (w : Word) : wordXY (famOf w) (xOf w) (yOf w) (nOf w) = w := by
  apply BitVec.eq_of_toNat_eq
  rw [wordXY_toNat, famOf_toNat, xOf_val, yOf_val, nOf_val]
  omega

/-! ### Decoding a canonical word (R75, R82) -/

/-- The canonical word of every instruction decodes to it: by the family alone, or by the discriminant of families 0, 8,
E and F. -/
theorem decode_encode (i : Instr) : decode (encode i) = some i := by
  cases i
  case cls | ret => rfl
  case ldReg | orReg | andReg | xorReg | addReg | subReg | subnReg | shr | shl =>
    simp [encode, decode, decodeFam8]
  case skp | sknp => simp [encode, decode, decodeFamE]
  case addI | ldF | ldB | stRegs | ldRegs | ldVxDt | ldDt | ldSt | ldKey =>
    simp [encode, decode, decodeFamF]
  all_goals simp [encode, decode]

/-! ### A word under a mask, as a number -/

/-- Mask 0xF000 keeps the family. -/
theorem and_family_toNat (w : Word) : (w &&& 0xF000).toNat = (famOf w).toNat * 0x1000 := by
  have hand := and_wordA (famOf w) (nnnOf w)
  have hzero : (0 : Addr12).toNat = 0 := rfl
  rw [wordA_fields] at hand
  rw [hand, append_toNat, hzero]
  omega

/-- Mask 0xF0FF keeps the family and the low byte. -/
theorem and_family_byte_toNat (w : Word) :
    (w &&& 0xF0FF).toNat = (famOf w).toNat * 0x1000 + (kkOf w).toNat := by
  have hand := andSS_wordXK (famOf w) (xOf w) (kkOf w)
  have hzero : (0 : Nibble).toNat = 0 := rfl
  rw [wordXK_fields] at hand
  rw [hand, append_toNat, append_toNat, hzero]
  omega

/-- Mask 0xF00F keeps the family and the low nibble. -/
theorem and_family_nibble_toNat (w : Word) :
    (w &&& 0xF00F).toNat = (famOf w).toNat * 0x1000 + (nOf w).val := by
  have hand := andS_wordXY (famOf w) (xOf w) (yOf w) (nOf w)
  have hzero : (0 : Byte).toNat = 0 := rfl
  have hn : (BitVec.ofFin (nOf w) : Nibble).toNat = (nOf w).val := rfl
  rw [wordXY_fields] at hand
  rw [hand, append_toNat, append_toNat, hn, hzero]
  omega

/-! ### The rows of the opcode map (R82) -/

/-- The three shapes of a row: selected by the family, the family and the low byte, or the family and the low nibble. -/
theorem opcodeTable_masks : ∀ r ∈ opcodeTable,
    r.bits &&& r.mask = r.bits ∧ (r.mask = 0xF000 ∨ r.mask = 0xF0FF ∨ r.mask = 0xF00F) := by
  decide

/-- A word selects a row when it has the row's family and the discriminant that the row's mask keeps. -/
theorem selects_iff {r : OpcodeRow} (hr : r ∈ opcodeTable) (w : Word) :
    r.selects w = true ↔ (famOf w).toNat = r.bits.toNat / 0x1000 ∧
      (r.mask = 0xF0FF → (kkOf w).toNat = r.bits.toNat % 0x100) ∧
      (r.mask = 0xF00F → (nOf w).val = r.bits.toNat % 0x10) := by
  obtain ⟨hbits, hmask⟩ := opcodeTable_masks r hr
  have hiff : r.selects w = true ↔ (w &&& r.mask).toNat = (r.bits &&& r.mask).toNat := by
    rw [OpcodeRow.selects, decide_eq_true_eq, hbits, BitVec.toNat_inj]
  rw [hiff, ← famOf_toNat, ← kkOf_toNat, ← nOf_val]
  obtain hm | hm | hm := hmask
  · rw [hm, and_family_toNat, and_family_toNat]
    simp only [mul_eq_mul_right_iff, OfNat.ofNat_ne_zero, or_false, BitVec.ofNat_eq_ofNat, BitVec.reduceEq,
      IsEmpty.forall_iff, and_self, and_true]
  · rw [hm, and_family_byte_toNat, and_family_byte_toNat]
    simp only [BitVec.ofNat_eq_ofNat, forall_const, BitVec.reduceEq, IsEmpty.forall_iff, and_true]
    omega
  · rw [hm, and_family_nibble_toNat, and_family_nibble_toNat]
    simp only [BitVec.ofNat_eq_ofNat, BitVec.reduceEq, IsEmpty.forall_iff, forall_const, true_and]
    omega


/-- A row that a word selects decides the word's branch in the decoder, so what the decoder answers. -/
theorem decode_of_selects {w : Word} {r : OpcodeRow} (hr : r ∈ opcodeTable) (hsel : r.selects w = true) :
    decode w = some (r.build w) ∧ (r.build w).mnemonic = r.mnemonic := by
  obtain ⟨hfam, hkk, hn⟩ := (selects_iff hr w).mp hsel
  clear hsel
  fin_cases hr
  all_goals exact ⟨by simp [decode, decodeFam0, decodeFam8, decodeFamE, decodeFamF, hfam, hkk, hn], rfl⟩

/-! ### The row of a decoded word, by the row's place in the map -/

section
variable {w : Word} {i : Instr}

/-- The row `k` of the opcode map. -/
abbrev opcodeRow (k : Fin 34) : OpcodeRow := opcodeTable[k.val]'k.isLt

/-- A row of the map that a word selects and that builds `i`. -/
def SelectsRow (w : Word) (i : Instr) : Prop := ∃ r ∈ opcodeTable, r.selects w = true ∧ r.build w = i

theorem selectsRow_of_family (k : Fin 34) (hmask : (opcodeRow k).mask = 0xF000)
    (hfam : (famOf w).toNat = (opcodeRow k).bits.toNat / 0x1000) (hi : some ((opcodeRow k).build w) = some i) :
    SelectsRow w i := by
  have hr : opcodeRow k ∈ opcodeTable := List.getElem_mem _
  refine ⟨_, hr, (selects_iff hr w).mpr ⟨hfam, ?_, ?_⟩, Option.some.inj hi⟩ <;> simp [hmask]

theorem selectsRow_of_byte (k : Fin 34) (hmask : (opcodeRow k).mask = 0xF0FF)
    (hfam : (famOf w).toNat = (opcodeRow k).bits.toNat / 0x1000)
    (hkk : (kkOf w).toNat = (opcodeRow k).bits.toNat % 0x100) (hi : some ((opcodeRow k).build w) = some i) :
    SelectsRow w i := by
  have hr : opcodeRow k ∈ opcodeTable := List.getElem_mem _
  exact ⟨_, hr, (selects_iff hr w).mpr ⟨hfam, fun _ => hkk, by simp [hmask]⟩, Option.some.inj hi⟩

theorem selectsRow_of_nibble (k : Fin 34) (hmask : (opcodeRow k).mask = 0xF00F)
    (hfam : (famOf w).toNat = (opcodeRow k).bits.toNat / 0x1000)
    (hn : (nOf w).val = (opcodeRow k).bits.toNat % 0x10) (hi : some ((opcodeRow k).build w) = some i) :
    SelectsRow w i := by
  have hr : opcodeRow k ∈ opcodeTable := List.getElem_mem _
  exact ⟨_, hr, (selects_iff hr w).mpr ⟨hfam, by simp [hmask], fun _ => hn⟩, Option.some.inj hi⟩

theorem selectsRow_of_decodeFam0 (hfam : (famOf w).toNat = 0x0) (h : decodeFam0 w = some i) : SelectsRow w i := by
  unfold decodeFam0 at h
  split at h
  next hkk => exact selectsRow_of_byte 0 rfl hfam hkk h
  next hkk => exact selectsRow_of_byte 1 rfl hfam hkk h
  next => cases h

theorem selectsRow_of_decodeFam8 (hfam : (famOf w).toNat = 0x8) (h : decodeFam8 w = some i) : SelectsRow w i := by
  unfold decodeFam8 at h
  split at h
  next hn => exact selectsRow_of_nibble 13 rfl hfam hn h
  next hn => exact selectsRow_of_nibble 14 rfl hfam hn h
  next hn => exact selectsRow_of_nibble 15 rfl hfam hn h
  next hn => exact selectsRow_of_nibble 16 rfl hfam hn h
  next hn => exact selectsRow_of_nibble 17 rfl hfam hn h
  next hn => exact selectsRow_of_nibble 18 rfl hfam hn h
  next hn => exact selectsRow_of_nibble 20 rfl hfam hn h
  next hn => exact selectsRow_of_nibble 19 rfl hfam hn h
  next hn => exact selectsRow_of_nibble 21 rfl hfam hn h
  next => cases h

theorem selectsRow_of_decodeFamE (hfam : (famOf w).toNat = 0xE) (h : decodeFamE w = some i) : SelectsRow w i := by
  unfold decodeFamE at h
  split at h
  next hkk => exact selectsRow_of_byte 9 rfl hfam hkk h
  next hkk => exact selectsRow_of_byte 10 rfl hfam hkk h
  next => cases h

theorem selectsRow_of_decodeFamF (hfam : (famOf w).toNat = 0xF) (h : decodeFamF w = some i) : SelectsRow w i := by
  unfold decodeFamF at h
  split at h
  next hkk => exact selectsRow_of_byte 30 rfl hfam hkk h
  next hkk => exact selectsRow_of_byte 33 rfl hfam hkk h
  next hkk => exact selectsRow_of_byte 31 rfl hfam hkk h
  next hkk => exact selectsRow_of_byte 32 rfl hfam hkk h
  next hkk => exact selectsRow_of_byte 24 rfl hfam hkk h
  next hkk => exact selectsRow_of_byte 25 rfl hfam hkk h
  next hkk => exact selectsRow_of_byte 26 rfl hfam hkk h
  next hkk => exact selectsRow_of_byte 27 rfl hfam hkk h
  next hkk => exact selectsRow_of_byte 28 rfl hfam hkk h
  next => cases h

/-- Each branch of the decoder is a row of the map, named here by its place. -/
theorem selectsRow_of_decode (h : decode w = some i) : SelectsRow w i := by
  unfold decode at h
  split at h
  next hfam => exact selectsRow_of_decodeFam0 hfam h
  next hfam => exact selectsRow_of_family 2 rfl hfam h
  next hfam => exact selectsRow_of_family 3 rfl hfam h
  next hfam => exact selectsRow_of_family 5 rfl hfam h
  next hfam => exact selectsRow_of_family 6 rfl hfam h
  next hfam => exact selectsRow_of_family 7 rfl hfam h
  next hfam => exact selectsRow_of_family 11 rfl hfam h
  next hfam => exact selectsRow_of_family 12 rfl hfam h
  next hfam => exact selectsRow_of_decodeFam8 hfam h
  next hfam => exact selectsRow_of_family 8 rfl hfam h
  next hfam => exact selectsRow_of_family 23 rfl hfam h
  next hfam => exact selectsRow_of_family 4 rfl hfam h
  next hfam => exact selectsRow_of_family 22 rfl hfam h
  next hfam => exact selectsRow_of_family 29 rfl hfam h
  next hfam => exact selectsRow_of_decodeFamE hfam h
  next =>
    have hfam : (famOf w).toNat = 0xF := by
      have hlt := (famOf w).isLt
      simp only [imp_false] at *
      omega
    exact selectsRow_of_decodeFamF hfam h

end

/-! ### The ignored bits (R80, R83) -/

section
variable (f : Nibble) (x y n : Fin 16)

theorem andX_wordXY : wordXY f x y n &&& 0x0F00 = wordXY 0 x 0 0 := by
  apply BitVec.eq_of_getLsbD_eq; intro i hi
  simp only [wordXY, BitVec.getLsbD_and, BitVec.getLsbD_append]
  interval_cases i <;> simp

theorem andY_wordXY : wordXY f x y n &&& 0x00F0 = wordXY 0 0 y 0 := by
  apply BitVec.eq_of_getLsbD_eq; intro i hi
  simp only [wordXY, BitVec.getLsbD_and, BitVec.getLsbD_append]
  interval_cases i <;> simp

theorem andN_wordXY : wordXY f x y n &&& 0x000F = wordXY 0 0 0 n := by
  apply BitVec.eq_of_getLsbD_eq; intro i hi
  simp only [wordXY, BitVec.getLsbD_and, BitVec.getLsbD_append]
  interval_cases i <;> simp

end

theorem and_x_toNat (w : Word) : (w &&& 0x0F00).toNat = (xOf w).val * 0x100 := by
  have hand := congrArg BitVec.toNat (andX_wordXY (famOf w) (xOf w) (yOf w) (nOf w))
  rw [wordXY_fields, wordXY_toNat] at hand
  simpa using hand

theorem and_y_toNat (w : Word) : (w &&& 0x00F0).toNat = (yOf w).val * 0x10 := by
  have hand := congrArg BitVec.toNat (andY_wordXY (famOf w) (xOf w) (yOf w) (nOf w))
  rw [wordXY_fields, wordXY_toNat] at hand
  simpa using hand

theorem and_n_toNat (w : Word) : (w &&& 0x000F).toNat = (nOf w).val := by
  have hand := congrArg BitVec.toNat (andN_wordXY (famOf w) (xOf w) (yOf w) (nOf w))
  rw [wordXY_fields, wordXY_toNat] at hand
  simpa using hand

/-- The check on words, field by field. -/
theorem canonicalWord_iff (w : Word) : canonicalWord w = true ↔
    ((famOf w).toNat = 0x0 → (kkOf w).toNat = 0xE0 ∨ (kkOf w).toNat = 0xEE → (xOf w).val = 0) ∧
    ((famOf w).toNat = 0x5 ∨ (famOf w).toNat = 0x9 → (nOf w).val = 0) ∧
    ((famOf w).toNat = 0x8 → (nOf w).val = 0x6 ∨ (nOf w).val = 0xE → (yOf w).val = 0) := by
  have hkk := (kkOf w).isLt
  simp only [canonicalWord, ← BitVec.toNat_inj, and_family_toNat, and_family_byte_toNat, and_family_nibble_toNat,
    and_x_toNat, and_y_toNat, and_n_toNat]
  simp only [BitVec.ofNat_eq_ofNat, BitVec.toNat_ofNat, Nat.reducePow, Nat.reduceMod]
  split_ifs
  · rw [decide_eq_true_eq]
    omega
  · rw [decide_eq_true_eq]
    omega
  · rw [decide_eq_true_eq]
    omega
  · simp only [true_iff]
    omega

/-- A word and its longer fields from its four nibbles. -/
theorem fields_toNat (w : Word) :
    w.toNat = (famOf w).toNat * 0x1000 + (xOf w).val * 0x100 + (yOf w).val * 0x10 + (nOf w).val ∧
    (kkOf w).toNat = (yOf w).val * 0x10 + (nOf w).val ∧
    (nnnOf w).toNat = (xOf w).val * 0x100 + (yOf w).val * 0x10 + (nOf w).val := by
  rw [famOf_toNat, kkOf_toNat, nnnOf_toNat, xOf_val, yOf_val, nOf_val]
  omega

/-- Row by row: the encoder writes the bits that the row's mask and its operands give, and 0 elsewhere. -/
theorem encode_eq_iff_canonicalWord {w : Word} {i : Instr} (h : decode w = some i) :
    encode i = w ↔ canonicalWord w = true := by
  obtain ⟨r, hr, hsel, rfl⟩ := selectsRow_of_decode h
  rw [selects_iff hr] at hsel
  rw [canonicalWord_iff, ← BitVec.toNat_inj]
  obtain ⟨hw, hkk, hnnn⟩ := fields_toNat w
  rw [hkk] at hsel ⊢
  rw [hw]
  clear h hw
  fin_cases hr
  all_goals simp [encode, wordA_toNat, wordXK_toNat, wordXY_toNat, hkk, hnnn] at hsel ⊢
  all_goals omega

/-! ### No word selects two rows (R82) -/

/-- Two rows ask for different values of a bit that both masks keep. -/
abbrev OpcodeRow.Conflicts (r r' : OpcodeRow) : Prop := r.bits &&& r'.mask ≠ r'.bits &&& r.mask

theorem opcodeTable_conflicts : opcodeTable.Pairwise OpcodeRow.Conflicts := by
  decide

theorem OpcodeRow.Conflicts.not_both {r r' : OpcodeRow} (h : r.Conflicts r') {w : Word} (hsel : r.selects w = true) :
    ¬ r'.selects w = true := by
  intro hsel'
  rw [OpcodeRow.selects, decide_eq_true_eq] at hsel hsel'
  apply h
  rw [← hsel, ← hsel', BitVec.and_assoc, BitVec.and_assoc, BitVec.and_comm r.mask]

end Sys2Proof
end

section
open Sys2Proof Sys2Proof.Machine

/-- Settles O1: the fields of a canonical word are the operands it was assembled from. -/
theorem decodeEncodeRoundTrip : Obligations.DecodeEncodeRoundTrip :=
  fun i _ => decode_encode i

/-- Settles O2: the canonical word of an instruction decodes to it, and equals itself, so it is canonical by the same
equivalence. -/
theorem canonicalWordsEncode : Obligations.CanonicalWordsEncode := by
  intro w i h
  exact ⟨decode_encode i, (encode_eq_iff_canonicalWord (decode_encode i)).mp rfl, encode_eq_iff_canonicalWord h⟩

/-- Settles O4: a row that a word selects decides its branch in the decoder, and each branch is a row. -/
theorem decoderFollowsOpcodeMap : Obligations.DecoderFollowsOpcodeMap :=
  fun _ => ⟨fun _ hr hsel => decode_of_selects hr hsel, fun _ h => selectsRow_of_decode h⟩

/-- Settles O5: every two rows conflict, so two rows among the selected ones cannot be. -/
theorem opcodeRowsDisjoint : Obligations.OpcodeRowsDisjoint := by
  refine ⟨rfl, fun w => ?_⟩
  by_contra hlen
  have hconflicts := List.pairwise_iff_getElem.mp (opcodeTable_conflicts.filter fun r => r.selects w) 0 1
    (by omega) (by omega) Nat.zero_lt_one
  have hselected (k : Nat) (hk : k < (opcodeTable.filter fun r => r.selects w).length) :
      (opcodeTable.filter fun r => r.selects w)[k].selects w = true :=
    (List.mem_filter.mp (List.getElem_mem hk)).2
  exact hconflicts.not_both (hselected 0 _) (hselected 1 _)

/-- Settles O6: each word is written out, and the decoder runs on it. -/
theorem familyWordsDecode : Obligations.FamilyWordsDecode := by
  unfold Obligations.FamilyWordsDecode
  decide

end

section
/-! PROOFS. The machine's invariant: what each update needs to keep it, then operations, cycles and the host's
transactions (10_state.md R23, R26, 60_exceptions.md R180, 45_host_interface.md R170 to R173). -/

namespace Sys2Proof.Machine

/-! ### The info values of R180 -/

/-- The larger of a word and 0x1000 is an address above 0xFFF, and at most the word's range. -/
theorem memoryFault_infoFits (a : Word) : FaultRecord.InfoFits ⟨.memoryOutOfRange, max a.toNat 0x1000⟩ := by
  have ha := a.isLt
  simp only [FaultRecord.InfoFits]
  omega

theorem keyFault_infoFits {b : Byte} (h : 15 < b.toNat) : FaultRecord.InfoFits ⟨.keyIndexOutOfRange, b.toNat⟩ := by
  have hb := b.isLt
  simp only [FaultRecord.InfoFits]
  omega

/-! ### Updates that keep the invariant -/

section
variable {s t : State}

/-- The invariant speaks of memory, `pc`, the stack slots and FAULT alone. -/
theorem State.Inv.congr (h : s.Inv) (hmem : t.mem = s.mem) (hpc : t.pc = s.pc) (hstack : t.stack = s.stack)
    (hfault : t.fault = s.fault) : t.Inv where
  mem_wf := hmem ▸ h.mem_wf
  pc_le := hpc ▸ h.pc_le
  stack_le := hstack ▸ h.stack_le
  fault_fits := hfault ▸ h.fault_fits

theorem State.Inv.setPc (h : s.Inv) {a : Word} (ha : a.toNat ≤ 0x10FE) : (s.setPc a).Inv where
  mem_wf := h.mem_wf
  pc_le := ha
  stack_le := h.stack_le
  fault_fits := h.fault_fits

theorem State.Inv.setMem (h : s.Inv) {m : Memory} (hm : m.wf) : (s.setMem m).Inv where
  mem_wf := hm
  pc_le := h.pc_le
  stack_le := h.stack_le
  fault_fits := h.fault_fits

theorem State.Inv.setFault (h : s.Inv) {f : FaultRecord} (hf : f.InfoFits) : (s.setFault (some f)).Inv where
  mem_wf := h.mem_wf
  pc_le := h.pc_le
  stack_le := h.stack_le
  fault_fits := by
    rintro g ⟨⟩
    exact hf

theorem State.Inv.setSlot (h : s.Inv) {k : Nat} (hk : k < 16) {a : Word} (ha : a.toNat ≤ 0x1000) :
    (s.setStack (s.stack.set k a)).Inv where
  mem_wf := h.mem_wf
  pc_le := h.pc_le
  stack_le j := by
    by_cases hkj : k = j.val
    · simpa [hkj] using ha
    · simpa [hkj] using h.stack_le j
  fault_fits := h.fault_fits

theorem State.Inv.setV (h : s.Inv) (a : Vector Byte 16) : (s.setV a).Inv := h.congr rfl rfl rfl rfl

theorem State.Inv.writeResultFlag (h : s.Inv) (x : RegIdx) (res : Byte) (f : Bool) :
    (s.writeResultFlag x res f).Inv := by
  rw [State.writeResultFlag, State.writeBoth_eq]
  exact h.setV _

theorem State.Inv.decay (h : s.Inv) : s.decay.Inv := h.congr rfl rfl rfl rfl

end

/-! ### Addresses that operations put into `pc` -/

theorem add_two_toNat_le (a : Word) : (a + 2).toNat ≤ a.toNat + 2 := by
  rw [BitVec.toNat_add]
  exact Nat.mod_le _ _

theorem absolute_le (nnn : Addr12) : (absolute nnn).toNat ≤ 0x10FE := by
  have hnnn := nnn.isLt
  rw [absolute_toNat]
  omega

/-- Jump-with-offset reaches the bound of R23: 0xFFF + 0xFF. -/
theorem State.offsetAddress_le (s : State) (nnn : Addr12) : (s.offsetAddress nnn).toNat ≤ 0x10FE := by
  have hnnn := nnn.isLt
  have hv := (s.v[0]).isLt
  rw [s.offsetAddress_toNat]
  omega

/-- The state in which an operation executes: the invariant, and `pc` advanced past a word that was fetched (R70, R71). -/
structure State.Fetched (s : State) : Prop where
  inv : s.Inv
  two_le_pc : 2 ≤ s.pc.toNat
  pc_le : s.pc.toNat ≤ 0x1000

section
variable {s : State}

theorem State.Inv.advancePc (h : s.Inv) (hf : s.Fetchable) : s.advancePc.Fetched := by
  have hpc : (s.pc + 2).toNat = s.pc.toNat + 2 := by
    have htwo : (2 : Word).toNat = 2 := rfl
    rw [BitVec.toNat_add, htwo]
    omega
  have hge : 2 ≤ (s.pc + 2).toNat := by omega
  have hle : (s.pc + 2).toNat ≤ 0x1000 := by omega
  exact ⟨h.setPc (by omega), hge, hle⟩

theorem State.Fetched.pc_sub_two_le (h : s.Fetched) : (s.pc - 2).toNat ≤ 0x10FE := by
  have hlo : (2 : Word) ≤ s.pc := h.two_le_pc
  have hhi := h.pc_le
  rw [BitVec.toNat_sub_of_le hlo]
  omega

/-- A raise goes back to the instruction and latches its record, or keeps the first fault (R32, R183). -/
theorem State.Fetched.raise (h : s.Fetched) {f : FaultRecord} (hf : f.InfoFits) : (s.raise f).Inv := by
  have hback : (s.setPc (s.pc - 2)).Inv := h.inv.setPc h.pc_sub_two_le
  cases hs : s.fault
  case none =>
    rw [s.raise_eq f hs]
    exact hback.setFault hf
  case some g =>
    rw [State.raise, State.latchFault_keeps (s.setPc (s.pc - 2)) f g hs]
    exact hback

/-- A taken skip moves `pc` to 0x1002 at most. -/
theorem State.Fetched.skipIf (h : s.Fetched) (c : Bool) : (s.skipIf c).Inv := by
  have hpc := h.pc_le
  have htaken := add_two_toNat_le s.pc
  rw [State.skipIf_eq]
  refine h.inv.setPc ?_
  cases c
  case false => exact h.inv.pc_le
  case true => exact htaken.trans (by omega)

/-! ### Operations -/

/-- A Return takes `pc` from a slot, a Call puts the advanced `pc` into one; a store stays inside MEM by its range check;
every other operation writes `pc` within its bound or none of what the invariant speaks of. -/
theorem State.Fetched.exec_inv (h : s.Fetched) (i : Instr) : ∃ t, exec i s = .next t ∧ t.Inv := by
  cases i
  case ret =>
    obtain hsp | hsp := Nat.eq_zero_or_pos s.sp.val
    · exact ⟨_, exec_ret_empty hsp, h.raise rfl⟩
    · have hslot := h.inv.stack_le ⟨s.sp.val - 1, by omega⟩
      have hsetSp : (s.setSp ⟨s.sp.val - 1, by omega⟩).Inv := h.inv.congr rfl rfl rfl rfl
      exact ⟨_, exec_ret_some hsp, hsetSp.setPc (hslot.trans (by decide))⟩
  case call nnn =>
    obtain hsp | hsp := Nat.lt_succ_iff_lt_or_eq.mp s.sp.isLt
    · have hpush := h.inv.setSlot hsp h.pc_le
      have hsetSp : ((s.setStack (s.stack.set s.sp.val s.pc)).setSp ⟨s.sp.val + 1, by omega⟩).Inv :=
        hpush.congr rfl rfl rfl rfl
      exact ⟨_, exec_call_room nnn hsp, hsetSp.setPc (absolute_le nnn)⟩
    · exact ⟨_, exec_call_full nnn hsp, h.raise rfl⟩
  case jp nnn => exact ⟨_, rfl, h.inv.setPc (absolute_le nnn)⟩
  case jpV0 nnn => exact ⟨_, rfl, h.inv.setPc (s.offsetAddress_le nnn)⟩
  case seImm | sneImm | seReg | sneReg => exact ⟨_, rfl, h.skipIf _⟩
  case skp x =>
    obtain hx | hx := Nat.lt_or_ge 15 (s.v[x]).toNat
    · exact ⟨_, exec_skp_noKey hx, h.raise (keyFault_infoFits hx)⟩
    · exact ⟨_, exec_skp_key (Nat.lt_succ_of_le hx), h.skipIf _⟩
  case sknp x =>
    obtain hx | hx := Nat.lt_or_ge 15 (s.v[x]).toNat
    · exact ⟨_, exec_sknp_noKey hx, h.raise (keyFault_infoFits hx)⟩
    · exact ⟨_, exec_sknp_key (Nat.lt_succ_of_le hx), h.skipIf _⟩
  case addReg | subReg | subnReg | shr | shl => exact ⟨_, rfl, h.inv.writeResultFlag _ _ _⟩
  case ldB x =>
    obtain hi | hi := Nat.lt_or_ge 0xFFF (s.i.toNat + 2)
    · exact ⟨_, exec_ldB_beyond hi, h.raise (memoryFault_infoFits s.i)⟩
    · exact ⟨_, exec_ldB_inside hi, h.inv.setMem (Memory.wf_writeBytes h.inv.mem_wf (Nat.succ_le_succ hi))⟩
  case stRegs x =>
    obtain hi | hi := Nat.lt_or_ge 0xFFF (s.i.toNat + x.val)
    · exact ⟨_, exec_stRegs_beyond hi, h.raise (memoryFault_infoFits s.i)⟩
    · have hlen : s.i.toNat + (s.regsThrough x).length ≤ memSize := by
        rw [s.regsThrough_length]
        exact Nat.succ_le_succ hi
      exact ⟨_, exec_stRegs_inside hi, h.inv.setMem (Memory.wf_writeBytes h.inv.mem_wf hlen)⟩
  case ldRegs x =>
    obtain hi | hi := Nat.lt_or_ge 0xFFF (s.i.toNat + x.val)
    · exact ⟨_, exec_ldRegs_beyond hi, h.raise (memoryFault_infoFits s.i)⟩
    · exact ⟨_, exec_ldRegs_inside hi, h.inv.setV _⟩
  case drw x y n =>
    by_cases hi : n.val = 0 ∨ s.i.toNat + n.val - 1 ≤ 0xFFF
    · exact ⟨_, exec_drw_inside hi, h.inv.congr rfl rfl rfl rfl⟩
    · exact ⟨_, exec_drw_beyond (by omega) (by omega), h.raise (memoryFault_infoFits s.i)⟩
  case ldKey x =>
    cases hkey : s.leastKey
    case none => exact ⟨_, exec_ldKey_waits x hkey, h.inv.setPc h.pc_sub_two_le⟩
    case some k => exact ⟨_, exec_ldKey_pressed x hkey, h.inv.congr rfl rfl rfl rfl⟩
  all_goals exact ⟨_, rfl, h.inv.congr rfl rfl rfl rfl⟩

/-! ### Cycles and host transactions -/

/-- The end of a cycle leaves what the invariant speaks of. -/
theorem finishCycle_inv {t u : State} (h : t.Inv) (hu : finishCycle (.next t) = .next u) : u.Inv := by
  obtain rfl := Host.Outcome.next.inj hu
  split
  · exact h
  · exact h.decay

theorem step_inv {t : State} (h : s.Inv) (hstep : step s = .next t) : t.Inv := by
  have hnext {u : State} (hu : step s = .next u) : u = t := Host.Outcome.next.inj (hu.symm.trans hstep)
  obtain ⟨f, -, hhalted⟩ | ⟨hr, hnot, -⟩ | ⟨-, hfetch, -, hnoOp⟩ | ⟨i, hi, hexec⟩ := step_cases s
  · exact hnext hhalted ▸ h
  · exact hnext (step_fetchFault hr hnot) ▸ h.setFault (memoryFault_infoFits s.pc)
  · exact hnext hnoOp ▸ (h.advancePc hfetch).inv.decay
  · obtain ⟨u, hu, hinv⟩ := (h.advancePc hi.fetchable).exec_inv i
    rw [hu] at hexec
    exact finishCycle_inv hinv (hexec.symm.trans hstep)

/-- The host sees the next state of a cycle or, had it none, no change. -/
theorem State.Inv.cycle (h : s.Inv) : s.cycle.Inv := by
  unfold State.cycle
  split
  · next t hstep => exact step_inv h hstep
  · exact h
  · exact h

theorem State.resetWith_inv (glyphs : Vector Byte 80) : (State.resetWith glyphs).Inv where
  mem_wf := Memory.wf_reset glyphs
  pc_le := by
    rw [State.resetWith_pc, resetPc_toNat]
    decide
  stack_le k := by simp [State.resetWith, resetWord]
  fault_fits _ hf := by cases hf

theorem State.Inv.load (h : s.Inv) (bytes : List Byte) : (s.load bytes).2.Inv := by
  obtain htooLong | hfits := Nat.lt_or_ge 3583 bytes.length
  · rw [s.load_tooLong htooLong]
    exact h
  · have hlen : 0x200 + bytes.length ≤ memSize := by
      simp only [memSize]
      omega
    rw [s.load_fits hfits]
    exact (h.setMem (Memory.wf_writeBytes h.mem_wf hlen)).setPc (by decide)

theorem State.Inv.act (h : s.Inv) (a : HostAction) : (s.act a).Inv := by
  cases a
  case reset => exact (State.resetWith_inv s.mem.glyphs).congr rfl rfl rfl rfl
  case load bytes => exact h.load bytes
  case keys k => exact h.congr rfl rfl rfl rfl
  case cycle => exact h.cycle

theorem State.Inv.actAll (h : s.Inv) (as : List HostAction) : (s.actAll as).Inv := by
  induction as generalizing s with
  | nil => exact h
  | cons a as ih => exact ih (h.act a)

end

end Sys2Proof.Machine
end

section
open Sys2Proof Sys2Proof.Machine

/-- Settles O23: empty memory, zero slots, `pc` at 0x200, no fault. -/
theorem resetMeetsInvariant : Obligations.ResetMeetsInvariant :=
  fun glyphs => ⟨State.resetWith_inv glyphs, rfl⟩

/-- Settles O24: each way a cycle can go keeps the invariant. -/
theorem stepKeepsInvariant : Obligations.StepKeepsInvariant :=
  fun _ _ h hstep => step_inv h hstep

/-- Settles O25, by induction on the list of transactions. -/
theorem hostRunsKeepInvariant : Obligations.HostRunsKeepInvariant :=
  fun _ as h => h.actAll as

end

section
/-! PROOFS. Every cycle answers (R72, 60_exceptions.md R184, R186), and what it may write (10_state.md R21 to R31): one
table of the pieces an operation writes, and from it the writers of each piece. -/

namespace Sys2Proof.Machine

/-! ### What an operation may write -/

/-- The pieces that an operation may write where it raises no fault, `base` being `I`. -/
def writes (base : Nat) (i : Instr) (p : Piece) : Prop :=
  match i with
  | .cls => ∃ r c, p = .pixel r c
  | .ret => p = .pc ∨ p = .sp
  | .call _ => p = .pc ∨ p = .sp ∨ ∃ k, p = .slot k
  | .jp _ | .jpV0 _ | .seImm _ _ | .sneImm _ _ | .seReg _ _ | .sneReg _ _ | .skp _ | .sknp _ => p = .pc
  | .ldImm x _ | .addImm x _ | .ldReg x _ | .orReg x _ | .andReg x _ | .xorReg x _ | .ldVxDt x => p = .reg x
  | .addReg x _ | .subReg x _ | .subnReg x _ | .shr x | .shl x => p = .reg x ∨ p = .reg 15
  | .rnd x _ => p = .reg x ∨ p = .draws
  | .ldI _ | .addI _ | .ldF _ => p = .i
  | .ldB _ => ∃ k, k ≤ 2 ∧ p = .mem (base + k)
  | .stRegs x => ∃ k, k ≤ x.val ∧ p = .mem (base + k)
  | .ldRegs x => ∃ k : RegIdx, k.val ≤ x.val ∧ p = .reg k
  | .drw _ _ _ => p = .reg 15 ∨ ∃ r c, p = .pixel r c
  | .ldDt _ => p = .dt
  | .ldSt _ => p = .st
  | .ldKey x => p = .reg x ∨ p = .pc

theorem ChangesOnly.setDraws {P : Piece → Prop} {s t : State} (h : ChangesOnly P s t) (hp : P .draws) (a : Nat) :
    ChangesOnly P s (t.setDraws a) := by
  intro p hnot
  cases p
  case draws => exact absurd hp hnot
  all_goals exact h _ hnot

/-- Random writes its register and the count of draws. -/
theorem State.rnd_frame (s : State) (x : RegIdx) (b : Byte) (n : Nat) :
    ChangesOnly (fun p => p = .reg x ∨ p = .draws) s ((s.writeReg x b).setDraws n) :=
  ((ChangesOnly.refl s).writeReg (.inl rfl) b).setDraws (.inr rfl) n

/-- An operation raises a fault or writes only what the table says. -/
theorem exec_frame (i : Instr) (s : State) :
    (∃ f, exec i s = .next (s.raise f)) ∨ ∃ t, exec i s = .next t ∧ ChangesOnly (writes s.i.toNat i) s t := by
  cases i
  case cls => exact .inr ⟨_, rfl, (ChangesOnly.refl s).setFb (fun r c => ⟨r, c, rfl⟩) _⟩
  case ret =>
    obtain h | h := Nat.eq_zero_or_pos s.sp.val
    · exact .inl ⟨_, exec_ret_empty h⟩
    · exact .inr ⟨_, exec_ret_some h, ((ChangesOnly.refl s).setSp (.inr rfl) _).setPc (.inl rfl) _⟩
  case call nnn =>
    obtain h | h := Nat.lt_succ_iff_lt_or_eq.mp s.sp.isLt
    · have hslot := (ChangesOnly.refl s).setSlot (P := writes s.i.toNat (.call nnn)) ⟨s.sp.val, h⟩
        (.inr (.inr ⟨_, rfl⟩)) s.pc
      exact .inr ⟨_, exec_call_room nnn h, (hslot.setSp (.inr (.inl rfl)) _).setPc (.inl rfl) _⟩
    · exact .inl ⟨_, exec_call_full nnn h⟩
  case jp | jpV0 => exact .inr ⟨_, rfl, s.setPc_frame _⟩
  case seImm | sneImm | seReg | sneReg => exact .inr ⟨_, rfl, (s.skipIf_spec _).2⟩
  case skp x =>
    obtain h | h := Nat.lt_or_ge 15 (s.v[x]).toNat
    · exact .inl ⟨_, exec_skp_noKey h⟩
    · exact .inr ⟨_, exec_skp_key (Nat.lt_succ_of_le h), (s.skipIf_spec _).2⟩
  case sknp x =>
    obtain h | h := Nat.lt_or_ge 15 (s.v[x]).toNat
    · exact .inl ⟨_, exec_sknp_noKey h⟩
    · exact .inr ⟨_, exec_sknp_key (Nat.lt_succ_of_le h), (s.skipIf_spec _).2⟩
  case ldImm | addImm | ldReg | orReg | andReg | xorReg | ldVxDt => exact .inr ⟨_, rfl, s.writeReg_frame _ _⟩
  case addReg | subReg | subnReg | shr | shl => exact .inr ⟨_, rfl, s.writeBoth_frame _ _ _ _⟩
  case rnd => exact .inr ⟨_, rfl, s.rnd_frame _ _ _⟩
  case ldI | addI | ldF => exact .inr ⟨_, rfl, s.setI_frame _⟩
  case ldB x =>
    obtain h | h := Nat.lt_or_ge 0xFFF (s.i.toNat + 2)
    · exact .inl ⟨_, exec_ldB_beyond h⟩
    · exact .inr ⟨_, exec_ldB_inside h, s.writeBytes_frame _ rfl⟩
  case stRegs x =>
    obtain h | h := Nat.lt_or_ge 0xFFF (s.i.toNat + x.val)
    · exact .inl ⟨_, exec_stRegs_beyond h⟩
    · exact .inr ⟨_, exec_stRegs_inside h, s.writeBytes_frame _ (s.regsThrough_length x)⟩
  case ldRegs x =>
    obtain h | h := Nat.lt_or_ge 0xFFF (s.i.toNat + x.val)
    · exact .inl ⟨_, exec_ldRegs_beyond h⟩
    · exact .inr ⟨_, exec_ldRegs_inside h, (ChangesOnly.refl s).setV fun r hnot =>
        (s.regsLoaded_getElem x r).trans (if_neg fun hr => hnot ⟨r, hr, rfl⟩)⟩
  case drw x y n =>
    by_cases h : n.val = 0 ∨ s.i.toNat + n.val - 1 ≤ 0xFFF
    · exact .inr ⟨_, exec_drw_inside h,
        ((ChangesOnly.refl s).setFb (fun r c => .inr ⟨r, c, rfl⟩) _).writeReg (.inl rfl) _⟩
    · exact .inl ⟨_, exec_drw_beyond (by omega) (by omega)⟩
  case ldDt => exact .inr ⟨_, rfl, s.setDt_frame _⟩
  case ldSt => exact .inr ⟨_, rfl, s.setSt_frame _⟩
  case ldKey x =>
    cases h : s.leastKey
    case none => exact .inr ⟨_, exec_ldKey_waits x h, (ChangesOnly.refl s).setPc (.inr rfl) _⟩
    case some k => exact .inr ⟨_, exec_ldKey_pressed x h, (ChangesOnly.refl s).writeReg (.inl rfl) _⟩

theorem not_writes_fault (base : Nat) (i : Instr) : ¬ writes base i .fault := by
  cases i <;> simp [writes]

theorem not_writes_key (base : Nat) (i : Instr) (k : Fin 16) : ¬ writes base i (.key k) := by
  cases i <;> simp [writes]

theorem not_writes_glyphs (base : Nat) (i : Instr) : ¬ writes base i .glyphs := by
  cases i <;> simp [writes]

/-! ### What a cycle may write -/

/-- A cycle ends with a fault latched and nothing else changed, the first fault staying in a halted machine; or it is
the pc advance, the writes of the operation if there is one, and the decay. -/
theorem step_answers {s t : State} (hstep : step s = .next t) :
    (∃ f, t = s.setFault (some f)) ∨ t = s.advancePc.decay ∨
    ∃ i u, s.Executes i ∧ ChangesOnly (writes s.i.toNat i) s.advancePc u ∧ t = u.decay := by
  have hnext {u : State} (hu : step s = .next u) : t = u := Host.Outcome.next.inj (hstep.symm.trans hu)
  obtain ⟨f, hf, hhalted⟩ | ⟨hr, hnot, -⟩ | ⟨-, -, -, hnoOp⟩ | ⟨i, hi, -⟩ := step_cases s
  · exact .inl ⟨f, hf ▸ hnext hhalted⟩
  · exact .inl ⟨_, hnext (step_fetchFault hr hnot)⟩
  · exact .inr (.inl (hnext hnoOp))
  · obtain ⟨f, hraise⟩ | ⟨u, hexec, hframe⟩ := exec_frame i s.advancePc
    · exact .inl ⟨f, hnext (step_executes_raise hi hraise)⟩
    · have hfault : u.fault = s.fault := hframe _ (not_writes_fault _ i)
      exact .inr (.inr ⟨i, u, hi, hframe, hnext (step_executes_ok hi hexec (hfault.trans hi.running))⟩)

/-- A cycle without a fault moves `pc` by 2 unless it executes an operation that writes `pc`. -/
theorem step_pc {s t : State} (hstep : step s = .next t) (hfault : t.fault = none) :
    t.pc = s.pc + 2 ∨ ∃ i, s.Executes i ∧ writes s.i.toNat i .pc := by
  obtain ⟨f, rfl⟩ | rfl | ⟨i, u, hi, hframe, rfl⟩ := step_answers hstep
  · simp at hfault
  · exact .inl rfl
  · by_cases hw : writes s.i.toNat i .pc
    · exact .inr ⟨i, hi, hw⟩
    · exact .inl (hframe _ hw)

/-- Where a cycle changes a piece that is not `pc`, a timer or FAULT, it executes an operation that writes the piece. -/
theorem step_writes {s t : State} (hstep : step s = .next t) (p : Piece)
    (hp : p ≠ .pc ∧ p ≠ .dt ∧ p ≠ .st ∧ p ≠ .fault) (hchanged : ¬ SameAt s t p) :
    ∃ i, s.Executes i ∧ writes s.i.toNat i p := by
  obtain ⟨hpc, hdt, hst, hfault⟩ := hp
  have hadvance (u : State) (h : SameAt s.advancePc u p) : SameAt s u.decay p := by
    cases p
    case pc => exact absurd rfl hpc
    case dt => exact absurd rfl hdt
    case st => exact absurd rfl hst
    all_goals exact h
  obtain ⟨f, rfl⟩ | rfl | ⟨i, u, hi, hframe, rfl⟩ := step_answers hstep
  · exact absurd (((ChangesOnly.refl s).setFault (P := fun p => p = .fault) rfl _) p hfault) hchanged
  · exact absurd (hadvance _ (ChangesOnly.refl (P := fun _ => False) _ p id)) hchanged
  · by_contra hno
    exact hchanged (hadvance u (hframe p fun hw => hno ⟨i, hi, hw⟩))

end Sys2Proof.Machine
end

section
open Sys2Proof Sys2Proof.Machine

/-- Settles O7: the cycle of an operation, its end case by case on FAULT. -/
theorem stepRunsDecoded : Obligations.StepRunsDecoded := by
  intro s i hr hf hd _
  have hstep : step s = finishCycle (exec i (s.setPc (s.pc + 2))) := step_executes ⟨hr, hf, hd⟩
  rw [hstep]
  cases exec i (s.setPc (s.pc + 2))
  case next t =>
    cases h : t.fault
    case none => simp [finishCycle_ok t h, h, State.decay]
    case some f => simp [finishCycle_fault t f h, h]
  case fault r => rfl
  case refused r => rfl

/-- Settles O12: a halted machine answers itself, a running one latches the fault that is due or runs on. -/
theorem everyCycleAnswers : Obligations.EveryCycleAnswers := by
  intro s
  cases h : s.fault
  case some f => exact ⟨s, step_halted h⟩
  case none =>
    obtain ⟨f, -, hstep⟩ | ⟨-, t, hstep, -⟩ := step_due h
    · exact ⟨_, hstep⟩
    · exact ⟨t, hstep⟩

/-- Settles O14: the writers of `pc` in the table are the ones that R23 lists. -/
theorem pcMovesByTwo : Obligations.PcMovesByTwo := by
  intro s t _ hstep hfault hpc
  obtain ⟨i, hi, hw⟩ := (step_pc hstep hfault).resolve_left hpc
  cases i
  case ret => exact .inl hi
  case jp nnn => exact .inr (.inl ⟨nnn, .inl hi⟩)
  case call nnn => exact .inr (.inl ⟨nnn, .inr (.inl hi)⟩)
  case jpV0 nnn => exact .inr (.inl ⟨nnn, .inr (.inr hi)⟩)
  case seImm x kk => exact .inr (.inr (.inl ⟨x, kk, .inl hi⟩))
  case sneImm x kk => exact .inr (.inr (.inl ⟨x, kk, .inr hi⟩))
  case seReg x y => exact .inr (.inr (.inr (.inl ⟨x, y, .inl hi⟩)))
  case sneReg x y => exact .inr (.inr (.inr (.inl ⟨x, y, .inr hi⟩)))
  case skp x => exact .inr (.inr (.inr (.inr ⟨x, .inl hi⟩)))
  case sknp x => exact .inr (.inr (.inr (.inr ⟨x, .inr (.inl hi)⟩)))
  case ldKey x => exact .inr (.inr (.inr (.inr ⟨x, .inr (.inr hi)⟩)))
  all_goals simp [writes] at hw

/-- Settles O15: the writers of `V[15]` in the table are the flagged operations, Sprite draw, and the operations whose
destination is `V[15]`. -/
theorem flagRegisterWriters : Obligations.FlagRegisterWriters := by
  intro s t hstep hv
  obtain ⟨i, hi, hw⟩ := step_writes hstep (.reg 15) (by simp) hv
  cases i
  case addReg x y => exact .inl ⟨x, y, 0, .inl hi⟩
  case subReg x y => exact .inl ⟨x, y, 0, .inr (.inl hi)⟩
  case subnReg x y => exact .inl ⟨x, y, 0, .inr (.inr (.inl hi))⟩
  case shr x => exact .inl ⟨x, 0, 0, .inr (.inr (.inr (.inl hi)))⟩
  case shl x => exact .inl ⟨x, 0, 0, .inr (.inr (.inr (.inr (.inl hi))))⟩
  case drw x y n => exact .inl ⟨x, y, n, .inr (.inr (.inr (.inr (.inr hi))))⟩
  case ldImm x kk =>
    obtain rfl := Piece.reg.inj hw
    exact .inr (.inl ⟨0, kk, .inl hi⟩)
  case addImm x kk =>
    obtain rfl := Piece.reg.inj hw
    exact .inr (.inl ⟨0, kk, .inr (.inl hi)⟩)
  case rnd x kk =>
    obtain rfl : 15 = x := by simpa [writes] using hw
    exact .inr (.inl ⟨0, kk, .inr (.inr (.inl hi))⟩)
  case ldReg x y =>
    obtain rfl := Piece.reg.inj hw
    exact .inr (.inl ⟨y, 0, .inr (.inr (.inr (.inl hi)))⟩)
  case orReg x y =>
    obtain rfl := Piece.reg.inj hw
    exact .inr (.inl ⟨y, 0, .inr (.inr (.inr (.inr (.inl hi))))⟩)
  case andReg x y =>
    obtain rfl := Piece.reg.inj hw
    exact .inr (.inl ⟨y, 0, .inr (.inr (.inr (.inr (.inr (.inl hi)))))⟩)
  case xorReg x y =>
    obtain rfl := Piece.reg.inj hw
    exact .inr (.inl ⟨y, 0, .inr (.inr (.inr (.inr (.inr (.inr hi)))))⟩)
  case ldRegs x =>
    obtain ⟨k, hk, hp⟩ := hw
    obtain rfl := Piece.reg.inj hp
    obtain rfl : x = 15 := Fin.le_antisymm (Fin.le_last x) hk
    exact .inr (.inr (.inl hi))
  case ldVxDt x =>
    obtain rfl := Piece.reg.inj hw
    exact .inr (.inr (.inr (.inl hi)))
  case ldKey x =>
    obtain rfl : 15 = x := by simpa [writes] using hw
    exact .inr (.inr (.inr (.inr hi)))
  all_goals simp [writes] at hw

/-- Settles O16: the writers of `I` in the table. -/
theorem indexWriters : Obligations.IndexWriters := by
  intro s t hstep hne
  obtain ⟨i, hi, hw⟩ := step_writes hstep .i (by simp) hne
  cases i
  case ldI nnn => exact .inl ⟨nnn, hi⟩
  case addI x => exact .inr ⟨x, .inl hi⟩
  case ldF x => exact .inr ⟨x, .inr hi⟩
  all_goals simp [writes] at hw

/-- Settles O17: two different stacks differ at a slot; the writers of slots and of SP in the table. -/
theorem stackWriters : Obligations.StackWriters := by
  intro s t hstep
  refine ⟨fun hne => ?_, fun hne => ?_⟩
  · obtain ⟨k, hk⟩ : ∃ k : Fin 16, t.stack[k] ≠ s.stack[k] := by
      by_contra! hall
      exact hne (Vector.ext fun k hk => hall ⟨k, hk⟩)
    obtain ⟨i, hi, hw⟩ := step_writes hstep (.slot k) (by simp) hk
    cases i
    case call nnn => exact ⟨nnn, hi⟩
    all_goals simp [writes] at hw
  · obtain ⟨i, hi, hw⟩ := step_writes hstep .sp (by simp) hne
    cases i
    case call nnn => exact .inl ⟨nnn, hi⟩
    case ret => exact .inr hi
    all_goals simp [writes] at hw

/-- Settles O18: the writers of memory in the table, with the bytes they write. -/
theorem memoryWriters : Obligations.MemoryWriters := by
  intro s t a hstep hne
  obtain ⟨i, hi, hw⟩ := step_writes hstep (.mem a) (by simp) hne
  cases i
  case ldB x =>
    obtain ⟨k, hk, ha⟩ := hw
    obtain rfl := Piece.mem.inj ha
    exact ⟨x, .inl ⟨hi, by omega, by omega⟩⟩
  case stRegs x =>
    obtain ⟨k, hk, ha⟩ := hw
    obtain rfl := Piece.mem.inj ha
    exact ⟨x, .inr ⟨hi, by omega, by omega⟩⟩
  all_goals simp [writes] at hw

/-- Settles O19: two different framebuffers differ at a cell; the writers of cells in the table. -/
theorem framebufferWriters : Obligations.FramebufferWriters := by
  intro s t hstep hne
  obtain ⟨r, c, hrc⟩ : ∃ r c, Framebuffer.pixel t.fb r c ≠ Framebuffer.pixel s.fb r c := by
    by_contra! hall
    exact hne (Framebuffer.ext_pixel hall)
  obtain ⟨i, hi, hw⟩ := step_writes hstep (.pixel r c) (by simp) hrc
  cases i
  case cls => exact .inl hi
  case drw x y n => exact .inr ⟨x, y, n, hi⟩
  all_goals simp [writes] at hw

/-- Settles O20: the table has no writer of a key and none of the glyphs. -/
theorem keysNeverWritten : Obligations.KeysNeverWritten := by
  intro s t hstep
  refine ⟨Vector.ext fun k hk => ?_, ?_⟩
  · by_contra hne
    obtain ⟨i, -, hw⟩ := step_writes hstep (.key ⟨k, hk⟩) (by simp) hne
    exact not_writes_key _ i _ hw
  · by_contra hne
    obtain ⟨i, -, hw⟩ := step_writes hstep .glyphs (by simp) hne
    exact not_writes_glyphs _ i hw

end

section
/-! PROOFS. The two pieces of the state that most operations do not see: the keys (10_state.md R31) and ST (R28, R29).
An update of either passes through every operation that does not concern it, and through the cycle. -/

namespace Sys2Proof.Machine

/-! ### An update of the keys or of ST -/

/-- A change of the keys, or of ST. -/
inductive SideChange where
  | keys (k : Vector Bool 16)
  | sound (b : Byte)

def SideChange.apply (a : SideChange) (s : State) : State :=
  match a with
  | .keys k => s.setKeys k
  | .sound b => s.setSt b

/-- The operations that see the change: those that read the keys (R109, R110, R163), and the one that writes ST
(R162). -/
def SideChange.Concerns (a : SideChange) (i : Instr) : Prop :=
  match a, i with
  | .keys _, .skp _ | .keys _, .sknp _ | .keys _, .ldKey _ | .sound _, .ldSt _ => True
  | _, _ => False

/-- The change as the decay of the timers leaves it. -/
def SideChange.decay : SideChange → SideChange
  | .keys k => .keys k
  | .sound b => .sound (decayTimer b)

section
variable (a : SideChange) (s : State)

theorem SideChange.apply_skipIf (c : Bool) : (a.apply s).skipIf c = a.apply (s.skipIf c) := by
  cases a <;> cases c <;> rfl

theorem SideChange.apply_writeResultFlag (x : RegIdx) (res : Byte) (f : Bool) :
    (a.apply s).writeResultFlag x res f = a.apply (s.writeResultFlag x res f) := by
  unfold State.writeResultFlag
  cases a <;> cases Config.vfOrder <;> rfl

theorem SideChange.apply_decay : (a.apply s).decay = a.decay.apply s.decay := by
  cases a <;> rfl

theorem SideChange.apply_advancePc : (a.apply s).advancePc = a.apply s.advancePc := by
  cases a <;> rfl

theorem SideChange.apply_fault : (a.apply s).fault = s.fault := by
  cases a <;> rfl

theorem SideChange.apply_executes (i : Instr) : (a.apply s).Executes i ↔ s.Executes i := by
  cases a <;> exact ⟨fun h => ⟨h.running, h.fetchable, h.decodes⟩, fun h => ⟨h.running, h.fetchable, h.decodes⟩⟩

end

/-! ### It passes through operations -/

/-- What an operation reads and checks is the same after the change, so it answers by the same case. -/
theorem SideChange.exec_apply (a : SideChange) {i : Instr} (ha : ¬ a.Concerns i) (s : State) :
    ∃ t, exec i s = .next t ∧ exec i (a.apply s) = .next (a.apply t) := by
  cases i
  case ret =>
    obtain h | h := Nat.eq_zero_or_pos s.sp.val
    · exact ⟨_, exec_ret_empty h, by cases a <;> exact exec_ret_empty (s := SideChange.apply _ s) h⟩
    · refine ⟨_, exec_ret_some h, ?_⟩
      cases a
      case keys k => exact exec_ret_some (s := s.setKeys k) h
      case sound b => exact exec_ret_some (s := s.setSt b) h
  case call nnn =>
    obtain h | h := Nat.lt_succ_iff_lt_or_eq.mp s.sp.isLt
    · refine ⟨_, exec_call_room nnn h, ?_⟩
      cases a
      case keys k => exact exec_call_room (s := s.setKeys k) nnn h
      case sound b => exact exec_call_room (s := s.setSt b) nnn h
    · exact ⟨_, exec_call_full nnn h, by cases a <;> exact exec_call_full (s := SideChange.apply _ s) nnn h⟩
  case seImm | sneImm | seReg | sneReg =>
    have hskip := a.apply_skipIf s
    exact ⟨_, rfl, by cases a <;> exact congrArg Host.Outcome.next (hskip _)⟩
  case skp x =>
    cases a
    case keys => exact absurd trivial ha
    case sound b =>
      have hskip := SideChange.apply_skipIf (.sound b) s
      obtain h | h := Nat.lt_or_ge 15 (s.v[x]).toNat
      · exact ⟨_, exec_skp_noKey h, exec_skp_noKey (s := s.setSt b) h⟩
      · have h := Nat.lt_succ_of_le h
        exact ⟨_, exec_skp_key h, (exec_skp_key (s := s.setSt b) h).trans (congrArg Host.Outcome.next (hskip _))⟩
  case sknp x =>
    cases a
    case keys => exact absurd trivial ha
    case sound b =>
      have hskip := SideChange.apply_skipIf (.sound b) s
      obtain h | h := Nat.lt_or_ge 15 (s.v[x]).toNat
      · exact ⟨_, exec_sknp_noKey h, exec_sknp_noKey (s := s.setSt b) h⟩
      · have h := Nat.lt_succ_of_le h
        exact ⟨_, exec_sknp_key h, (exec_sknp_key (s := s.setSt b) h).trans (congrArg Host.Outcome.next (hskip _))⟩
  case ldKey x =>
    cases a
    case keys => exact absurd trivial ha
    case sound b =>
      cases h : s.leastKey
      case none => exact ⟨_, exec_ldKey_waits x h, exec_ldKey_waits (s := s.setSt b) x h⟩
      case some k => exact ⟨_, exec_ldKey_pressed x h, exec_ldKey_pressed (s := s.setSt b) x h⟩
  case addReg | subReg | subnReg | shr | shl =>
    have hwrite := a.apply_writeResultFlag s
    exact ⟨_, rfl, by cases a <;> exact congrArg Host.Outcome.next (hwrite _ _ _)⟩
  case ldB x =>
    obtain h | h := Nat.lt_or_ge 0xFFF (s.i.toNat + 2)
    · exact ⟨_, exec_ldB_beyond h, by cases a <;> exact exec_ldB_beyond (s := SideChange.apply _ s) h⟩
    · exact ⟨_, exec_ldB_inside h, by cases a <;> exact exec_ldB_inside (s := SideChange.apply _ s) h⟩
  case stRegs x =>
    obtain h | h := Nat.lt_or_ge 0xFFF (s.i.toNat + x.val)
    · exact ⟨_, exec_stRegs_beyond h, by cases a <;> exact exec_stRegs_beyond (s := SideChange.apply _ s) h⟩
    · exact ⟨_, exec_stRegs_inside h, by cases a <;> exact exec_stRegs_inside (s := SideChange.apply _ s) h⟩
  case ldRegs x =>
    obtain h | h := Nat.lt_or_ge 0xFFF (s.i.toNat + x.val)
    · exact ⟨_, exec_ldRegs_beyond h, by cases a <;> exact exec_ldRegs_beyond (s := SideChange.apply _ s) h⟩
    · exact ⟨_, exec_ldRegs_inside h, by cases a <;> exact exec_ldRegs_inside (s := SideChange.apply _ s) h⟩
  case drw x y n =>
    by_cases h : n.val = 0 ∨ s.i.toNat + n.val - 1 ≤ 0xFFF
    · exact ⟨_, exec_drw_inside h, by cases a <;> exact exec_drw_inside (s := SideChange.apply _ s) h⟩
    · have hn : n.val ≠ 0 := by omega
      have hi : 0xFFF < s.i.toNat + n.val - 1 := by omega
      exact ⟨_, exec_drw_beyond hn hi, by cases a <;> exact exec_drw_beyond (s := SideChange.apply _ s) hn hi⟩
  case ldSt x =>
    cases a
    case keys => exact ⟨_, rfl, rfl⟩
    case sound => exact absurd trivial ha
  all_goals exact ⟨_, rfl, by cases a <;> rfl⟩

/-! ### It passes through cycles -/

/-- The change stands after the cycle as it was, or as the decay leaves it. -/
theorem SideChange.step_apply (a : SideChange) {s t : State} (ha : ∀ i, s.Executes i → ¬ a.Concerns i)
    (hstep : step s = .next t) :
    step (a.apply s) = .next (a.apply t) ∨ step (a.apply s) = .next (a.decay.apply t) := by
  have hnext {u : State} (hu : step s = .next u) : t = u := Host.Outcome.next.inj (hstep.symm.trans hu)
  obtain ⟨f, hf, hhalted⟩ | ⟨hr, hnot, -⟩ | ⟨hr, hfetch, hnone, hnoOp⟩ | ⟨i, hi, -⟩ := step_cases s
  · obtain rfl := hnext hhalted
    exact .inl (step_halted ((a.apply_fault t).trans hf))
  · obtain rfl := hnext (step_fetchFault hr hnot)
    exact .inl (by cases a <;> exact step_fetchFault (s := SideChange.apply _ s) hr hnot)
  · obtain rfl := hnext hnoOp
    exact .inr (by cases a <;> exact step_noOperation (s := SideChange.apply _ s) hr hfetch hnone)
  · have hi' := (a.apply_executes s i).mpr hi
    obtain ⟨u, hu, hu'⟩ := a.exec_apply (ha i hi) s.advancePc
    rw [← a.apply_advancePc] at hu'
    have hcycle := step_executes hi
    have hcycle' := step_executes hi'
    rw [hu] at hcycle
    rw [hu'] at hcycle'
    cases hfault : u.fault
    case none =>
      rw [finishCycle_ok u hfault] at hcycle
      rw [finishCycle_ok _ ((a.apply_fault u).trans hfault), a.apply_decay] at hcycle'
      exact .inr (hnext hcycle ▸ hcycle')
    case some f =>
      rw [finishCycle_fault u f hfault] at hcycle
      rw [finishCycle_fault _ f ((a.apply_fault u).trans hfault)] at hcycle'
      exact .inl (hnext hcycle ▸ hcycle')

/-- Set-sound writes over whatever ST held. -/
theorem step_ldSt_setSt {s : State} {x : RegIdx} (h : s.Executes (.ldSt x)) (b : Byte) :
    step (s.setSt b) = step s := by
  have h' : (s.setSt b).Executes (.ldSt x) := ((SideChange.sound b).apply_executes s _).mpr h
  rw [step_executes h, step_executes h']
  rfl

end Sys2Proof.Machine
end

section
open Sys2Proof Sys2Proof.Machine

/-- Settles O21: a change of the keys concerns the key instructions alone, and the decay leaves it as it is. -/
theorem keysReadByKeyInstructionsOnly : Obligations.KeysReadByKeyInstructionsOnly := by
  intro s t k hstep hno
  have hunseen (i) (hi : s.Executes i) : ¬ (SideChange.keys k).Concerns i := by
    cases i
    case skp x => exact absurd ⟨x, .inl hi⟩ hno
    case sknp x => exact absurd ⟨x, .inr (.inl hi)⟩ hno
    case ldKey x => exact absurd ⟨x, .inr (.inr hi)⟩ hno
    all_goals exact id
  exact (SideChange.step_apply (.keys k) hunseen hstep).elim id id

/-- Settles O22: a change of ST concerns Set-sound alone, whose cycle writes over it. -/
theorem soundTimerHasNoEffect : Obligations.SoundTimerHasNoEffect := by
  intro s t b hstep
  by_cases hset : ∃ x, s.Executes (.ldSt x)
  · obtain ⟨x, hx⟩ := hset
    exact ⟨t, (step_ldSt_setSt hx b).trans hstep, rfl⟩
  · have hunseen (i) (hi : s.Executes i) : ¬ (SideChange.sound b).Concerns i := by
      cases i
      case ldSt x => exact absurd ⟨x, hi⟩ hset
      all_goals exact id
    obtain h | h := SideChange.step_apply (.sound b) hunseen hstep
    · exact ⟨_, h, rfl⟩
    · exact ⟨_, h, rfl⟩

end

section
/-! PROOFS. The range check (20_memory.md R58), the canonical form of memory (log entry 12), and a fetch of bytes that a
Register dump has stored (R54, R61). -/

namespace Sys2Proof.Machine

/-! ### The canonical form: the list holds exactly the bytes that differ from the reset contents -/

theorem mem_of_lookupCell {a : Nat} {b : Byte} {cs : List Host.Cell} (h : lookupCell a cs = some b) : (a, b) ∈ cs := by
  induction cs with
  | nil => cases h
  | cons c cs ih =>
    unfold lookupCell at h
    split at h
    · next ha =>
      obtain rfl := Option.some.inj h
      exact ha ▸ List.mem_cons_self
    · exact List.mem_cons_of_mem _ (ih h)

/-- Where addresses rise strictly, a listed byte is the one that the lookup finds. -/
theorem lookupCell_of_mem {c : Host.Cell} {cs : List Host.Cell} (hrise : cs.Pairwise (fun c d => c.1 < d.1))
    (h : c ∈ cs) : lookupCell c.1 cs = some c.2 := by
  induction cs with
  | nil => cases h
  | cons d cs ih =>
    obtain ⟨hd, htail⟩ := List.pairwise_cons.mp hrise
    obtain rfl | h := List.mem_cons.mp h
    · exact if_pos rfl
    · exact (if_neg (Nat.ne_of_lt (hd c h))).trans (ih htail h)

theorem Memory.mem_cells_iff {m : Memory} (h : m.wf) (c : Host.Cell) :
    c ∈ m.cells ↔ m.read c.1 = c.2 ∧ c.2 ≠ Memory.unlisted m.glyphs c.1 := by
  obtain ⟨hrise, hdiffer⟩ := h
  refine ⟨fun hc => ⟨?_, (hdiffer c hc).2⟩, fun ⟨hread, hne⟩ => ?_⟩
  · rw [Memory.read, lookupCell_of_mem hrise hc, Option.getD_some]
  · rw [Memory.read] at hread
    cases hlookup : lookupCell c.1 m.cells
    case none =>
      rw [hlookup, Option.getD_none] at hread
      exact absurd hread.symm hne
    case some b =>
      rw [hlookup, Option.getD_some] at hread
      have hlisted := mem_of_lookupCell hlookup
      rwa [hread] at hlisted

/-- The same bytes are listed, in the same order. -/
theorem Memory.ext_read {m m' : Memory} (h : m.wf) (h' : m'.wf) (hglyphs : m.glyphs = m'.glyphs)
    (hread : ∀ a, m.read a = m'.read a) : m = m' := by
  have hirrefl : Std.Irrefl fun c d : Host.Cell => c.1 < d.1 := ⟨fun c => Nat.lt_irrefl c.1⟩
  have hasymm : Std.Asymm fun c d : Host.Cell => c.1 < d.1 := ⟨fun c d => Nat.lt_asymm⟩
  have hcells : m.cells = m'.cells := h.1.eq_of_mem_iff h'.1 fun c => by
    rw [Memory.mem_cells_iff h, Memory.mem_cells_iff h', hread, hglyphs]
  cases m
  cases m'
  exact congrArg₂ Memory.mk hglyphs hcells

end Sys2Proof.Machine
end

section
open Sys2Proof Sys2Proof.Machine

/-- Settles O26: the check of an access that ends inside MEM, and of one that does not, whose lowest address above 0xFFF
is its base or else 0x1000. -/
theorem rangeCheckReportsLowest : Obligations.RangeCheckReportsLowest := by
  intro a n
  refine ⟨?_, fun b hb => ?_⟩
  · rw [rangeFault_none]
    simp only [memSize]
    refine ⟨fun h k hk => by omega, fun h => ?_⟩
    obtain rfl | hn := Nat.eq_zero_or_pos n
    · exact .inl rfl
    · have hlast := h (n - 1) (by omega)
      omega
  · obtain ⟨⟨hn, hbeyond⟩, rfl⟩ := rangeFault_some.mp hb
    simp only [memSize] at hbeyond
    exact ⟨⟨max a 0x1000 - a, by omega, by omega⟩, by omega, fun k _ _ => by omega⟩

/-- Settles O27: a byte is listed when it is what memory reads there and not what an unlisted address reads, so both lists
hold the same cells, in rising order. -/
theorem memoryFormIsCanonical : Obligations.MemoryFormIsCanonical :=
  fun _ _ h h' hglyphs hread => Memory.ext_read h h' hglyphs hread

/-- Settles O28: the dump in range, then a fetch whose two bytes are both among the stored ones. -/
theorem fetchSeesStoredBytes : Obligations.FetchSeesStoredBytes := by
  intro s x k hk hrange
  refine ⟨_, exec_stRegs_inside hrange, fun u hmem hpc => ?_⟩
  have hx := x.isLt
  have hread (j : Nat) (hj : j ≤ x.val) : u.mem.read (s.i.toNat + j) = s.v[j]'(by omega) := by
    have hlen : j < (s.regsThrough x).length := by
      rw [s.regsThrough_length]
      omega
    rw [hmem]
    exact (s.mem.read_writeBytes_inside _ hlen).trans (s.regsThrough_getElem (k := ⟨j, by omega⟩) hlen)
  rw [u.fetch_ok (by omega), hpc, hread k (by omega), Nat.add_assoc, hread (k + 1) hk]

end

section
/-! PROOFS. What reset leaves (10_state.md R33, R34, 45_host_interface.md R200), and what the host reads (R174, R175,
R177). -/

namespace Sys2Proof.Machine

theorem Memory.unlisted_glyph (glyphs : Vector Byte 80) {a : Nat} (h : a < 80) :
    Memory.unlisted glyphs a = glyphs[a] :=
  dif_pos h

theorem Memory.unlisted_zero (glyphs : Vector Byte 80) {a : Nat} (h : 80 ≤ a) : Memory.unlisted glyphs a = 0 :=
  dif_neg (Nat.not_lt.mpr h)

/-- The framebuffer read is the cells of all rows, one row after the other (R30). -/
theorem State.readFramebuffer_eq (s : State) : s.readFramebuffer = (Vector.flatten s.fb).toList := by
  simp only [Vector.flatten, Vector.toList, Array.toList_flatten, Array.toList_map, List.map_map]
  rfl

theorem State.readFramebuffer_length (s : State) : s.readFramebuffer.length = 2048 := by
  rw [s.readFramebuffer_eq, Vector.length_toList]

theorem State.readFramebuffer_getElem? (s : State) (r : Fin 32) (c : Fin 64) :
    s.readFramebuffer[r.val * 64 + c.val]? = some (Framebuffer.pixel s.fb r c) := by
  have hlt : r.val * 64 + c.val < 32 * 64 := by omega
  have hr : (r.val * 64 + c.val) / 64 = r.val := by omega
  have hc : (r.val * 64 + c.val) % 64 = c.val := by omega
  have hcell : (Vector.flatten s.fb)[r.val * 64 + c.val] = Framebuffer.pixel s.fb r c := by
    rw [Vector.getElem_flatten hlt]
    simp only [hr, hc]
    rfl
  rw [s.readFramebuffer_eq, Vector.getElem?_toList, Vector.getElem?_eq_getElem hlt, hcell]

end Sys2Proof.Machine
end

section
open Sys2Proof Sys2Proof.Machine

/-- Settles O30: construction and the host's reset leave the same but for the count of draws; memory lists no byte, so it
reads as its reset contents. -/
theorem resetLeavesTable : Obligations.ResetLeavesTable := by
  intro glyphs s hs
  obtain ⟨n, rfl⟩ : ∃ n, s = (State.resetWith glyphs).setDraws n := by
    obtain rfl | ⟨s₀, rfl, rfl⟩ := hs
    · exact ⟨_, rfl⟩
    · exact ⟨_, rfl⟩
  refine ⟨fun d k hd hk => Memory.unlisted_glyph glyphs (by omega), fun a ha => Memory.unlisted_zero glyphs ha,
    rfl, rfl, rfl, rfl, rfl, rfl, fun r => ?_, fun k => ?_, fun k => ?_, fun r c => ?_⟩
  · exact Vector.getElem_replicate r.isLt
  · exact Vector.getElem_replicate k.isLt
  · exact Vector.getElem_replicate k.isLt
  · simp [Framebuffer.pixel, State.resetWith, resetPixel]

/-- Settles O32: the framebuffer read row by row; the fault read is none only where FAULT is. -/
theorem hostReadsState : Obligations.HostReadsState := by
  intro s
  refine ⟨s.readFramebuffer_length, s.readFramebuffer_getElem?, rfl, Option.map_eq_none_iff, fun f hf => ?_⟩
  rw [State.readFault, hf, Option.map_some]

end

section
/-! PROOFS. Cycles that change the timers alone: a run that has ended (70_reset_and_hazards.md R209) and a wait for a key
(44_timers_input.md R163, R164); the countdown of the delay timer (R161, R164). -/

namespace Sys2Proof.Machine

/-! ### Cycles that change the timers alone -/

/-- The decay changes the timers alone. -/
theorem State.decay_frame (s : State) : ChangesOnly (fun p => p = .dt ∨ p = .st) s s.decay :=
  ((ChangesOnly.refl s).setDt (.inl rfl) _).setSt (.inr rfl) _

/-- An operation that moves `pc` back to itself, and does nothing else, leaves the decay of its cycle. -/
theorem step_stays {s : State} {i : Instr} {a : Word} (h : s.Executes i)
    (hexec : exec i s.advancePc = .next (s.advancePc.setPc a)) (ha : a = s.pc) : step s = .next s.decay := by
  subst ha
  exact step_executes_ok h hexec h.running

theorem State.EndedNormally.executes_jp {s : State} (h : s.EndedNormally) :
    s.Executes (.jp (nnnOf s.wordAtPc)) where
  running := h.running
  fetchable := h.fetchable
  decodes := by
    have hfam : (famOf s.wordAtPc).toNat = 0x1 := by
      have hpc := h.fetchable
      rw [famOf_toNat, h.jumps_to_self]
      omega
    simp only [decode, hfam]

/-- The word at `pc` is a Jump to `pc`, so its operand is `pc`. -/
theorem State.EndedNormally.step_eq {s : State} (h : s.EndedNormally) : step s = .next s.decay := by
  refine step_stays h.executes_jp rfl (BitVec.eq_of_toNat_eq ?_)
  have hpc := h.fetchable
  rw [absolute_toNat, nnnOf_toNat, h.jumps_to_self]
  omega

/-- No key pressed: the operation moves `pc` back by 2 (R163). -/
theorem step_ldKey_waits {s : State} {x : RegIdx} (h : s.Executes (.ldKey x))
    (hkeys : ∀ k : Fin 16, s.keys[k] = false) : step s = .next s.decay :=
  step_stays h (exec_ldKey_waits x (State.leastKey_eq_none_iff.mpr hkeys)) (by simp [State.advancePc])

/-! ### The delay timer along cycles -/

theorem State.cycle_eq {s t : State} (h : step s = .next t) : s.cycle = t := by
  rw [State.cycle, h]

/-- A halted machine stays halted (R184). -/
theorem State.running_of_cycle_running {s : State} (h : s.cycle.Running) : s.Running := by
  cases hf : s.fault
  case none => exact hf
  case some f =>
    rw [State.cycle_eq (step_halted hf), State.Running, hf] at h
    cases h

/-- What a cycle without a fault leaves in DT, by O13. -/
theorem State.cycle_dt {s : State} (h : s.cycle.Running) :
    (∀ x, s.Executes (.ldDt x) → s.cycle.dt.toNat = (s.v[x]).toNat - 1) ∧
    ((¬ ∃ x, s.Executes (.ldDt x)) → s.cycle.dt.toNat = s.dt.toNat - 1) := by
  obtain ⟨t, hstep⟩ := everyCycleAnswers s
  have hr := State.running_of_cycle_running h
  rw [State.cycle_eq hstep] at h ⊢
  obtain ⟨hset, hkeep, -, -⟩ := (timersDecayOncePerCycle s t hr hstep).1 h
  exact ⟨hset, hkeep⟩

/-- One cycle sets and decays the timer, each further one decays it. -/
theorem State.iterate_cycle_dt {s : State} {x : RegIdx} (hset : s.Executes (.ldDt x)) (k : Nat)
    (hrun : (State.cycle^[k + 1] s).Running)
    (hno : ∀ j, 1 ≤ j → j < k + 1 → ¬ ∃ y, (State.cycle^[j] s).Executes (.ldDt y)) :
    (State.cycle^[k + 1] s).dt.toNat = (s.v[x]).toNat - (k + 1) := by
  induction k with
  | zero => exact (State.cycle_dt hrun).1 x hset
  | succ k ih =>
    rw [Function.iterate_succ_apply'] at hrun ⊢
    have hlast := ih (State.running_of_cycle_running hrun) fun j hj hlt => hno j hj (by omega)
    rw [(State.cycle_dt hrun).2 (hno (k + 1) (by omega) (by omega)), hlast]
    omega

end Sys2Proof.Machine
end

section
open Sys2Proof Sys2Proof.Machine

/-- Settles O33: the Jump goes back to its own address, so the decay alone is left, which keeps the ended state. -/
theorem endedRunStays : Obligations.EndedRunStays := by
  intro s h
  exact ⟨s.decay, h.step_eq, decayTimer_toNat s.dt, decayTimer_toNat s.st, s.decay_frame,
    h.running, h.fetchable, h.jumps_to_self⟩

/-- Settles O60: Block-on-key goes back to its own address, so the decay alone is left, and the same word is there. -/
theorem waitingChangesOnlyTimers : Obligations.WaitingChangesOnlyTimers := by
  intro s x h hkeys
  exact ⟨s.decay, step_ldKey_waits h hkeys, decayTimer_toNat s.dt, decayTimer_toNat s.st, s.decay_frame,
    h.running, h.fetchable, h.decodes⟩

/-- Settles O58, by induction on the number of cycles after the first. -/
theorem setDelayCountsDown : Obligations.SetDelayCountsDown := by
  intro s x k hset hk hrun hno
  obtain ⟨k, rfl⟩ := Nat.exists_eq_add_of_le' hk
  exact State.iterate_cycle_dt hset k hrun hno

/-- Settles O38: the slot that the Call has written is the one that the Return takes `pc` from. -/
theorem returnResumesAfterCall : Obligations.ReturnResumesAfterCall := by
  intro s nnn hroom
  refine ⟨_, exec_call_room nnn hroom, fun u hsp hstack => ?_⟩
  have husp : u.sp.val = s.sp.val + 1 := congrArg Fin.val hsp
  refine ⟨_, exec_ret_some (by omega), ?_, ?_⟩
  · simp [hstack, husp]
  · simp [husp]

/-- Settles O48: one register write of the draw under the mask, and the count of draws. -/
theorem randomIsMaskedDraw : Obligations.RandomIsMaskedDraw := by
  intro s x kk
  have hv : ((s.writeReg x (Config.rnd s.draws &&& kk)).setDraws (s.draws + 1)).v[x] = Config.rnd s.draws &&& kk :=
    s.v_writeReg_self x _
  refine ⟨_, rfl, hv, rfl, fun k hk => ?_, ?_, s.rnd_frame x _ _⟩
  · refine (congrArg (BitVec.getLsbD · k) hv).trans ?_
    rw [BitVec.getLsbD_and, hk, Bool.and_false]
  · refine (congrArg BitVec.toNat hv).trans_le ?_
    rw [BitVec.toNat_and]
    exact Nat.and_le_right

end

section
/-! PROOFS. A sprite drawn twice (43_display.md R151, 95_test_vectors.md S7). -/

namespace Sys2Proof.Machine

/-- A sprite is what its coordinates, `I` and the bytes from `I` on make it. -/
theorem State.spriteBit_congr {s u : State} {x y : RegIdx} (hx : u.v[x] = s.v[x]) (hy : u.v[y] = s.v[y])
    (hi : u.i = s.i) (hread : ∀ a, u.mem.read a = s.mem.read a) (n : Nat) : u.spriteBit x y n = s.spriteBit x y n := by
  funext r c
  simp only [State.spriteBit, hx, hy, hi, hread]

end Sys2Proof.Machine
end

section
open Sys2Proof Sys2Proof.Machine

/-- Settles O56: both draws XOR the same sprite by O55, so the second undoes the first, and meets the cells that the
first lit. -/
theorem drawTwiceRestores : Obligations.DrawTwiceRestores := by
  intro s x y n hx hy hrange
  obtain ⟨t, hexec, hpixel, hhit, -, hframe⟩ := (drawXorsClippedSprite s x y n).1 hrange
  refine ⟨t, hexec, fun u hfb hv hi hmem => ?_⟩
  have hti : t.i = s.i := hframe .i (by simp)
  have htv {r : RegIdx} (hr : r ≠ 15) : t.v[r] = s.v[r] := hframe (.reg r) (by simpa using hr)
  have hread (a : Nat) : t.mem.read a = s.mem.read a := hframe (.mem a) (by simp)
  have hsprite : u.spriteBit x y n.val = s.spriteBit x y n.val :=
    State.spriteBit_congr (hv ▸ htv hx) (hv ▸ htv hy) (hi.trans hti) (hmem ▸ hread) n.val
  obtain ⟨w, hexec', hpixel', hhit', -, -⟩ := (drawXorsClippedSprite u x y n).1 (by rwa [hi, hti])
  rw [hsprite, hfb] at hpixel' hhit'
  refine ⟨w, hexec', Framebuffer.ext_pixel fun r c => ?_, fun hmiss hlit => hhit' ?_⟩
  · rw [hpixel', hpixel, Bool.xor_assoc, Bool.xor_self, Bool.xor_false]
  · obtain ⟨r, c, hrc⟩ : ∃ r c, Framebuffer.pixel t.fb r c ≠ Framebuffer.pixel s.fb r c := by
      by_contra! hall
      exact hlit (Framebuffer.ext_pixel hall)
    rw [hpixel] at hrc
    have hbit : s.spriteBit x y n.val r c = true := by
      by_contra hnot
      exact hrc (by rw [Bool.eq_false_iff.mpr hnot, Bool.xor_false])
    have hunlit : Framebuffer.pixel s.fb r c = false := by
      by_contra hset
      have hone := hhit ⟨r, c, by simpa using hset, hbit⟩
      rw [hmiss] at hone
      cases hone
    exact ⟨r, c, by rw [hpixel, hunlit, hbit]; rfl, hbit⟩

end
